-- ==== Sys2Proof/Word.lean ====
section
/-! DEFINITION. The machine word of MLE61 (spec 00_scope R10: a 32-bit bus), the pair of words that holds a field
element (R12, R13) and the pair of field elements that holds a projective point (R35). -/

namespace Sys2Proof

/-- One 32-bit register word, the unit of every host access (20_memory R65). -/
abbrev Word := BitVec 32

/-- A pair `(hi, lo)` of words (00_scope R12): a field element when both words are limbs and its value is below `p`, a
raw pair otherwise (R13). -/
structure Pair where
  hi : Word
  lo : Word
  deriving DecidableEq, Repr

/-- A projective point `(X : Z)` (10_state R35); `Z = 0` is the point at infinity (00_scope R8). -/
structure Point where
  x : Pair
  z : Pair
  deriving DecidableEq, Repr

end Sys2Proof
end

