-- ==== Sys2Proof/Config.lean ====
section
/-! DEFINITION. The fixed parameters of MLE61 (spec 00_scope R8, R10), its one open parameter that the model names
(`base`, R62) and its free values (`freeWord`, R48, R230). -/

namespace Sys2Proof

/-- LIMB_BITS (R8). -/
def Config.limbBits : Nat := 31

/-- A limb holds a value in `[0, 2^31)` (R8, R13). -/
def Config.limbBase : Nat := 2147483648

/-- The modulus `p = 2^61 − 1`, hard-wired (R8, 10_state R44). -/
def Config.p : Nat := 2305843009213693951

/-- The raw pair whose value is `p` (R8; `PFE` of 41_field): never a valid field element (R121). -/
def Config.pfe : Pair := ⟨1073741823#32, 2147483647#32⟩

/-- The window is 256 bytes (R10). -/
def Config.windowBytes : Nat := 256

/-- FREE VALUE. `BASE`, the system address of offset 0x00 of the window: an OPEN platform parameter (R10, R62). -/
opaque Config.base : Nat

/-- The system address of a window offset (R62); the block itself sees only the 8-bit offset. -/
def Config.systemAddress (off : BitVec 8) : Nat := Config.base + off.toNat

/-- FREE VALUE. The n-th 32-bit value that the spec leaves UNSPECIFIED: the data registers after a reset taken while the
machine runs (10_state R47, R48) and the read data of an access presented while `rst = 1` (70 R230). Log entries 3 and 4. -/
opaque Config.freeWord : Nat → Word

end Sys2Proof
end

