-- ==== Sys2Proof/Machine/Datapath.lean ====
section
/-! DEFINITION. The datapath functions of MLE61: limb primitives (spec 40_limb R100 to R103), field primitives (41_field R120
to R128), the operand check (10_state R34), point doubling and differential addition (42_point R160, R161) and the ladder's
iteration (43_ladder R180). Values inside are exact natural numbers (00_scope R11), narrowed to words at the end. -/

namespace Sys2Proof.Machine

/-! ### Numbers and pairs -/

/-- `val(e) = e.hi·2^31 + e.lo` (00_scope R12). -/
def val (e : Pair) : Nat := Config.limbBase * e.hi.toNat + e.lo.toNat

/-- The pair of words that holds two limbs. -/
def limbPair (h l : Nat) : Pair := ⟨BitVec.ofNat 32 h, BitVec.ofNat 32 l⟩

/-- `fe(v) = (v div 2^31, v mod 2^31)`, defined for `v < 2^62` (00_scope R12). -/
def fe (v : Nat) : Pair := limbPair (v / Config.limbBase) (v % Config.limbBase)

/-- `bitlen(k)`: the position of the most significant set bit plus 1, and 0 for 0 (00_scope R11). -/
def bitlen (k : Nat) : Nat := if k = 0 then 0 else Nat.log2 k + 1

/-- A word is a limb word when bit 31 is 0 (00_scope R13, 40_limb R104). -/
def isLimb (w : Word) : Bool := !w.getLsbD 31

/-! ### Limb primitives, for limbs `a` and `b` -/

/-- `addLimb` (R100). -/
def addLimb (a b : Nat) : Nat := (a + b) % Config.limbBase

/-- `addLimbWithCarry`: (sum, carry) (R101). -/
def addLimbWithCarry (a b : Nat) : Nat × Nat := ((a + b) % Config.limbBase, (a + b) / Config.limbBase)

/-- `subLimb`: the wrapping difference (R102). -/
def subLimb (a b : Nat) : Nat := (a + Config.limbBase - b) % Config.limbBase

/-- `subLimbWithBorrow`: (diff, borrow) (R103). -/
def subLimbWithBorrow (a b : Nat) : Nat × Nat := (subLimb a b, if a < b then 1 else 0)

/-! ### Field primitives -/

/-- The three results of a comparison (R120). -/
inductive Order where
  | equal
  | less
  | greater
  deriving DecidableEq, Repr

/-- `rawCompare`: lexicographic on (hi, lo), with no validation (R120). -/
def rawCompare (x y : Pair) : Order :=
  if x.hi.toNat < y.hi.toNat then .less
  else if y.hi.toNat < x.hi.toNat then .greater
  else if x.lo.toNat < y.lo.toNat then .less
  else if y.lo.toNat < x.lo.toNat then .greater
  else .equal

/-- `validate` (R121). -/
def validate (e : Pair) : Bool := rawCompare e Config.pfe == .less

/-- `validFE`, the operand check of every command that consumes a field element (10_state R34). -/
def validFE (e : Pair) : Bool := isLimb e.hi && isLimb e.lo && validate e

/-- `addCore`, for limb pairs whose values sum to less than 2p: limb-wise sum with carry, then at most one subtraction of p
(R122). -/
def addCore (x y : Pair) : Pair :=
  let lo := addLimbWithCarry x.lo.toNat y.lo.toNat
  let shi := x.hi.toNat + y.hi.toNat + lo.2
  if rawCompare (limbPair shi lo.1) Config.pfe = .less then
    limbPair shi lo.1
  else
    let d := subLimbWithBorrow lo.1 Config.pfe.lo.toNat
    limbPair (shi - Config.pfe.hi.toNat - d.2) d.1

/-- `negCore`, for a valid `b`: the raw pair of value p − b (R123). -/
def negCore (b : Pair) : Pair :=
  let d := subLimbWithBorrow Config.pfe.lo.toNat b.lo.toNat
  limbPair (Config.pfe.hi.toNat - b.hi.toNat - d.2) d.1

/-- The additive inverse is added: `addCore(a, negCore(b))` (R133). -/
def subCore (a b : Pair) : Pair := addCore a (negCore b)

/-- Karatsuba's partial product `h` (R124). -/
def mulH (a b : Pair) : Nat := a.hi.toNat * b.hi.toNat

/-- Karatsuba's partial product `l` (R124). -/
def mulL (a b : Pair) : Nat := a.lo.toNat * b.lo.toNat

/-- Karatsuba's product of sums `s` (R124). -/
def mulS (a b : Pair) : Nat := (a.hi.toNat + a.lo.toNat) * (b.hi.toNat + b.lo.toNat)

/-- Karatsuba's middle term `m = s − h − l` (R124). -/
def mulM (a b : Pair) : Nat := mulS a b - mulH a b - mulL a b

/-- The folded value T, the carry `m div 2^31` added to `h` before doubling (R125). -/
def mulT (a b : Pair) : Nat :=
  mulL a b + 2 * (mulH a b + mulM a b / Config.limbBase) + Config.limbBase * (mulM a b % Config.limbBase)

/-- `mulCore`: the exact remainder of T, split into limbs (R126). -/
def mulCore (a b : Pair) : Pair := fe (mulT a b % Config.p)

/-- `fromIntegerCore` (R127). -/
def fromIntegerCore (n : Nat) : Pair := fe (n % Config.p)

/-- `toIntegerCore` (R128). -/
def toIntegerCore (e : Pair) : Nat := val e

/-! ### Points -/

/-- A point operand is valid when both of its field elements are (10_state R35). -/
def validPoint (p : Point) : Bool := validFE p.x && validFE p.z

/-- The last two lines of `doubleCP`, from `aa`, `bb` and `e` (R160). -/
def doubleFinish (aa bb e a24 : Pair) : Point :=
  { x := mulCore aa bb, z := mulCore e (addCore bb (mulCore a24 e)) }

/-- `doubleCP((X, Z), a24)` (R160). -/
def doubleCP (p : Point) (a24 : Pair) : Point :=
  let a := addCore p.x p.z
  let b := subCore p.x p.z
  let aa := mulCore a a
  let bb := mulCore b b
  doubleFinish aa bb (subCore aa bb) a24

/-- `addCP((X1, Z1), (X2, Z2), (Xd, Zd))` (R161); the difference precondition is not checked (R162). -/
def addCP (p1 p2 pd : Point) : Point :=
  let da := subCore p2.x p2.z
  let db := addCore p1.x p1.z
  let dc := addCore p2.x p2.z
  let dd := subCore p1.x p1.z
  let e := mulCore da db
  let f := mulCore dc dd
  let g := addCore e f
  let h := subCore e f
  { x := mulCore pd.z (mulCore g g), z := mulCore pd.x (mulCore h h) }

/-! ### The ladder -/

/-- The running points of one iteration for bit `b`: all candidates are computed, then selected (R180, R187). -/
def ladderIter (d : Point) (a24 : Pair) (b : Bool) (rs : Point × Point) : Point × Point :=
  let tAdd := addCP rs.2 rs.1 d
  let tDblR := doubleCP rs.1 a24
  let tDblS := doubleCP rs.2 a24
  (if b then tAdd else tDblR, if b then tDblS else tAdd)

/-- The iterations for the `n` low bits of `k`, bit n − 1 first (R180, R185). -/
def ladderLoop (d : Point) (k : Nat) (a24 : Pair) : Nat → Point × Point → Point × Point
  | 0, rs => rs
  | n + 1, rs => ladderLoop d k a24 n (ladderIter d a24 (k.testBit n) rs)

/-- The point at infinity that the zero scalar gives (R181). -/
def ladderZero : Point := ⟨fe 1, fe 0⟩

/-- The running points before the bit below the leading 1-bit: R = D, S = 2D (R180). -/
def ladderInit (d : Point) (a24 : Pair) : Point × Point := (d, doubleCP d a24)

/-- `ladder(D, k, a24)` (R180). -/
def ladder (d : Point) (k : Nat) (a24 : Pair) : Point :=
  if k = 0 then ladderZero else (ladderLoop d k a24 (bitlen k - 1) (ladderInit d a24)).1

end Sys2Proof.Machine
end

