-- ==== Sys2Proof/Machine/State.lean ====
section
/-! DEFINITION. The state of MLE61 (spec 10_state R30 to R48), as plain data: the data registers with their written marks,
CMD, STATUS and RESULT, the running command with its hidden state, the port's read data, and the agenda that says which
agent moves next. -/

namespace Sys2Proof.Machine

/-- One 32-bit word of a data register, with the mark of R48: `written` is false from a reset until the first write. -/
structure RegWord where
  val : Word
  written : Bool
  deriving DecidableEq, Repr

/-- A register of two words (R31, R36, R38). -/
structure Reg where
  hi : RegWord
  lo : RegWord
  deriving DecidableEq, Repr

/-- The registers a command can read as operands: F0 to F15 (R31), IR (R36) and A24 (R38). The point registers P0 to P7
are views of `f` (R35), no storage of their own. -/
structure Bank where
  f : Vector Reg 16
  ir : Reg
  a24 : Reg
  deriving DecidableEq, Repr

/-- Which word of a two-word register. -/
inductive Half where
  | lo
  | hi
  deriving DecidableEq, Repr

/-- The name of one word of the operand registers. -/
inductive DataWord where
  | f (i : Fin 16) (h : Half)
  | ir (h : Half)
  | a24 (h : Half)
  deriving DecidableEq, Repr

/-- What stands at a window offset (20_memory R63). -/
inductive WindowReg where
  | data (d : DataWord)
  | result
  | cmd
  | status
  | reserved
  deriving DecidableEq, Repr

/-- The completion codes (60_exceptions R200); codes 4 to 15 are reserved and never produced, so they are no value here. -/
inductive CompletionCode where
  | ok
  | outOfRangeFieldElement
  | illegalCommand
  | outOfRangeLimb
  deriving DecidableEq, Repr

/-- The stored fields of STATUS (R40). BUSY is not stored a second time: it is 1 exactly when a command is pending (R45).
Reserved bits read 0 and are no storage. -/
structure Status where
  degen : Bool
  code : CompletionCode
  err : Bool
  ovr : Bool
  deriving DecidableEq, Repr

/-- The ladder's hidden working registers (R45, 43_ladder R186): base point `d`, running points `r` and `s`, and `todo`, the
number of scalar bits still to process (the bit index i of R180 is `todo − 1`). -/
structure LadderRegs where
  d : Point
  r : Point
  s : Point
  todo : Nat
  deriving DecidableEq, Repr

/-- The running command (R45): the latched command word, the issue snapshot of the operand registers, and, for a PLADDER
that has begun, its working registers. -/
structure Pending where
  word : Word
  snapshot : Bank
  ladder : Option LadderRegs
  deriving DecidableEq, Repr

/-- The input pins of one clock cycle (20_memory R60). -/
structure PortIn where
  rst : Bool
  req : Bool
  we : Bool
  addr : BitVec 8
  wdata : Word
  deriving DecidableEq, Repr

/-- One event of the machine (00_scope R17, 70 R240): a cycle of the host's port, hidden progress of the engine on the
running command, or the engine's commit. -/
inductive Event where
  | host (p : PortIn)
  | work
  | commit
  deriving DecidableEq, Repr

/-- The state of MLE61 (R30, R45). `rdata` is the port's read data, present in the step of a read only (R60, R61). `agenda`
lists the events still to come, oldest first, and so fixes when the engine commits (log entry 5). `freeIdx` counts the free
values taken so far (the model's own field, log entries 3 and 4). -/
structure State where
  data : Bank
  result : RegWord
  cmd : Word
  status : Status
  pending : Option Pending
  rdata : Option Word
  agenda : List Event
  freeIdx : Nat
  deriving DecidableEq, Repr

/-- The reasons the machine itself stops with a fault: there are none. MLE61 has no trap (60_exceptions R210), every 32-bit
command word commits (30_encoding R87, R88), every window offset is defined (20_memory R63, R68), and a read of a register
that nothing has written yet goes on with the register's value (log entry 2). No constructor, so no meaning can raise one:
safe. -/
inductive Fault where
  deriving DecidableEq, Repr

/-- The reasons a step is refused. -/
inductive Refusal where
  /-- The dispatcher raises it for a command that has no meaning yet, by its mnemonic in the opcode table; every command has
  one, so no step raises it. Safe: the machine would go on where the model stops. -/
  | notModelled (mnemonic : String)
  deriving DecidableEq, Repr

/-- The outcome of a step of this machine. -/
abbrev Outcome := Host.Outcome State Fault Refusal

/-- A data-register word after reset: marked unwritten (R48); its value is DESIGN CHOICE zero (log entry 1), since the spec
gives none (R47). -/
def RegWord.reset : RegWord := ⟨0#32, false⟩

/-- The machine right after reset (R47, R230): STATUS = 0, CMD = 0, nothing pending; the data registers unwritten. Nothing
is on the agenda: the host's accesses come from outside (log entry 6). -/
def State.reset : State :=
  { data :=
      { f := Vector.replicate 16 ⟨RegWord.reset, RegWord.reset⟩
        ir := ⟨RegWord.reset, RegWord.reset⟩
        a24 := ⟨RegWord.reset, RegWord.reset⟩ }
    result := RegWord.reset
    cmd := 0#32
    status := { degen := false, code := .ok, err := false, ovr := false }
    pending := none
    rdata := none
    agenda := []
    freeIdx := 0 }

end Sys2Proof.Machine
end

