-- ==== Sys2Proof/Machine/Flags.lean ====
section
/-! DEFINITION. The fields of STATUS: what the host reads (spec 10_state R40), and how issue, commit, a dropped write and a
host write change them (R41, 20_memory R67, R70, 60_exceptions R201). -/

namespace Sys2Proof.Machine

/-- The number of a completion code (60_exceptions R200). -/
def CompletionCode.num : CompletionCode → Nat
  | .ok => 0
  | .outOfRangeFieldElement => 1
  | .illegalCommand => 2
  | .outOfRangeLimb => 3

/-- BUSY is 1 exactly when a command is pending (R45). -/
def State.busy (s : State) : Bool := s.pending.isSome

/-- STATUS as the host reads it: BUSY 0, DEGEN 1, CODE 7:4, ERR 8, OVR 9, every other bit 0 (R40). -/
def statusWord (busy : Bool) (st : Status) : Word :=
  BitVec.ofNat 32
    (busy.toNat + 2 * st.degen.toNat + 16 * st.code.num + 256 * st.err.toNat + 512 * st.ovr.toNat)

/-- STATUS at a commit with code `c`: CODE and DEGEN are overwritten, ERR is set by a code other than OK and else kept, OVR
is kept (R41, R201). `zeroScalar` says that the command is a PLADDER with scalar 0. -/
def Status.atCommit (st : Status) (c : CompletionCode) (zeroScalar : Bool) : Status :=
  { degen := zeroScalar && c == .ok, code := c, err := st.err || !(c == .ok), ovr := st.ovr }

/-- STATUS after a host write of `v`: bits 8 and 9 clear ERR and OVR where they are 1 (R41, R70). -/
def Status.atHostWrite (st : Status) (v : Word) : Status :=
  { degen := st.degen, code := st.code, err := st.err && !v.getLsbD 8, ovr := st.ovr && !v.getLsbD 9 }

/-- STATUS after a dropped host write: OVR is set and nothing else (R67, 60_exceptions R207). -/
def Status.overrun (st : Status) : Status :=
  { degen := st.degen, code := st.code, err := st.err, ovr := true }

/-- STATUS after reset, apart from BUSY: all 0 (R47). -/
def Status.cleared : Status := { degen := false, code := .ok, err := false, ovr := false }

end Sys2Proof.Machine
end

