-- ==== Sys2Proof/Machine/Ops.lean ====
section
/-! DEFINITION. The operations on the state: the engine's register writes and its commit (spec 10_state R33, R41), ending a
command with an error code (60_exceptions R201; MLE61 has no trap and no return from one, R210, R211), issue (10_state R39),
the host's window reads and writes (20_memory R61 to R72), and reset (70 R230, R231). -/

namespace Sys2Proof.Machine

/-! ### Registers -/

/-- A written register word: its value, no longer marked unwritten (R48). -/
def RegWord.put (w : Word) : RegWord := ⟨w, true⟩

/-- The pair of words a register holds. -/
def Reg.pair (r : Reg) : Pair := ⟨r.hi.val, r.lo.val⟩

/-- A register both words of which are written. -/
def Reg.put (p : Pair) : Reg := ⟨RegWord.put p.hi, RegWord.put p.lo⟩

/-- Some word of a register was written since reset (R48). -/
def Reg.everWritten (r : Reg) : Bool := r.hi.written || r.lo.written

/-- One word of a register. -/
def Reg.half (r : Reg) : Half → RegWord
  | .lo => r.lo
  | .hi => r.hi

/-- Write one word of a register. -/
def Reg.setHalf (r : Reg) (h : Half) (w : Word) : Reg :=
  match h with
  | .lo => { r with lo := RegWord.put w }
  | .hi => { r with hi := RegWord.put w }

/-- Field register `F[i]` (R31). -/
def Bank.freg (b : Bank) (i : Fin 16) : Reg := b.f[i.val]

/-- Replace field register `F[i]`. -/
def Bank.setF (b : Bank) (i : Fin 16) (r : Reg) : Bank := { b with f := b.f.set i.val r }

/-- The word of the operand registers with a given name. -/
def Bank.word (b : Bank) : DataWord → RegWord
  | .f i h => (b.freg i).half h
  | .ir h => b.ir.half h
  | .a24 h => b.a24.half h

/-- Write the word of the operand registers with a given name. -/
def Bank.setWord (b : Bank) (d : DataWord) (w : Word) : Bank :=
  match d with
  | .f i h => b.setF i ((b.freg i).setHalf h w)
  | .ir h => { b with ir := b.ir.setHalf h w }
  | .a24 h => { b with a24 := b.a24.setHalf h w }

/-- The X register of point register `P[k]`: `F[2k]` (R35). -/
def pointX (k : Fin 8) : Fin 16 := ⟨2 * k.val, by omega⟩

/-- The Z register of point register `P[k]`: `F[2k+1]` (R35). -/
def pointZ (k : Fin 8) : Fin 16 := ⟨2 * k.val + 1, by omega⟩

/-- `{hi, lo}` as a 64-bit integer (R36). -/
def int64 (p : Pair) : Nat := 4294967296 * p.hi.toNat + p.lo.toNat

/-- A 64-bit integer as its high and low words (R36). -/
def int64Pair (n : Nat) : Pair := ⟨BitVec.ofNat 32 (n / 4294967296), BitVec.ofNat 32 n⟩

/-! ### Engine writes and commit -/

/-- `F[i] <- p`, both words (00_scope R12). -/
def State.writeF (s : State) (i : Fin 16) (p : Pair) : State := { s with data := s.data.setF i (Reg.put p) }

/-- `P[k] <- p`: writes `F[2k]` and `F[2k+1]` (R35). -/
def State.writePoint (s : State) (k : Fin 8) (p : Point) : State :=
  (s.writeF (pointX k) p.x).writeF (pointZ k) p.z

/-- `{IR_HI, IR_LO} <- n` (R36). -/
def State.writeIR (s : State) (n : Nat) : State :=
  { s with data := { s.data with ir := Reg.put (int64Pair n) } }

/-- `RESULT <- w` (R42). -/
def State.writeResult (s : State) (w : Word) : State := { s with result := RegWord.put w }

/-- The engine's commit: BUSY <- 0 with the hidden state gone (R45), and STATUS as R41 says. -/
def State.commit (s : State) (c : CompletionCode) (zeroScalar : Bool) : State :=
  { s with pending := none, status := s.status.atCommit c zeroScalar }

/-- End a command with code OK. -/
def State.complete (s : State) : Outcome := .next (s.commit .ok false)

/-- `raise <Code>()`: the command commits with its error code and writes no destination (00_scope R12, R201). -/
def State.raise (s : State) (c : CompletionCode) : Outcome := .next (s.commit c false)

/-! ### Host accesses -/

/-- The register a window offset reaches: the block decodes addr[7:2] and ignores addr[1:0] (R63, R65). -/
def windowReg (addr : BitVec 8) : WindowReg :=
  let k := addr.toNat / 4
  if h : k < 32 then
    .data (.f ⟨k / 2, by omega⟩ (if k % 2 = 0 then .lo else .hi))
  else if k = 32 then .data (.ir .lo)
  else if k = 33 then .data (.ir .hi)
  else if k = 34 then .data (.a24 .lo)
  else if k = 35 then .data (.a24 .hi)
  else if k = 36 then .result
  else if k = 38 then .cmd
  else if k = 39 then .status
  else .reserved

/-- STATUS as the host reads it now (R40). -/
def State.statusWord (s : State) : Word := Machine.statusWord s.busy s.status

/-- The word a host read returns: the register's current value, also while busy (R61, R72); reserved offsets read 0 (R68). -/
def State.readReg (s : State) : WindowReg → Word
  | .data d => (s.data.word d).val
  | .result => s.result.val
  | .cmd => s.cmd
  | .status => s.statusWord
  | .reserved => 0#32

/-- A host read of the register at a window offset: `MemRead(off, 4)` (00_scope R12). -/
def State.hostRead (s : State) (addr : BitVec 8) : Word := s.readReg (windowReg addr)

/-- The byte at a window offset, for a bus that numbers bytes: little-endian within the word (R66). -/
def State.windowByte (s : State) (addr : BitVec 8) : BitVec 8 :=
  (s.hostRead addr).extractLsb' (8 * (addr.toNat % 4)) 8

/-- A host write that is dropped because BUSY = 1 (R67). -/
def State.drop (s : State) : State := { s with status := s.status.overrun }

/-- Issue: the engine latches the command word, takes the operand snapshot and becomes busy; no other STATUS field changes
(R39, R41, R45). -/
def State.issue (s : State) (w : Word) : State :=
  { s with cmd := w, pending := some { word := w, snapshot := s.data, ladder := none } }

/-- A host write to a register: stored, issued, or write-1-to-clear; dropped while busy where R67 says so; ignored at RESULT
and reserved offsets (R67 to R70). -/
def State.writeReg (s : State) (r : WindowReg) (v : Word) : State :=
  match r with
  | .data d => if s.busy then s.drop else { s with data := s.data.setWord d v }
  | .result => s
  | .cmd => if s.busy then s.drop else s.issue v
  | .status => { s with status := s.status.atHostWrite v }
  | .reserved => s

/-- A host write at a window offset: `MemWrite(off, 4, v)` (00_scope R12). -/
def State.hostWrite (s : State) (addr : BitVec 8) (v : Word) : State := s.writeReg (windowReg addr) v

/-- The operand registers after a reset taken while the machine runs: every word is unspecified, so a free value from index
`n` on, and is marked unwritten (R47, R48). -/
def unspecifiedBank (n : Nat) : Bank :=
  { f := Vector.ofFn fun i =>
      ⟨⟨Config.freeWord (n + 2 * i.val + 1), false⟩, ⟨Config.freeWord (n + 2 * i.val), false⟩⟩
    ir := ⟨⟨Config.freeWord (n + 33), false⟩, ⟨Config.freeWord (n + 32), false⟩⟩
    a24 := ⟨⟨Config.freeWord (n + 35), false⟩, ⟨Config.freeWord (n + 34), false⟩⟩ }

/-- A cycle with rst = 1: the reset state of R47, the running command abandoned (R230, R231). An access presented in it is
ignored; a read then returns unspecified data. The events still to come are the outside's and stay. -/
def State.resetEdge (s : State) (p : PortIn) : State :=
  { data := unspecifiedBank s.freeIdx
    result := ⟨Config.freeWord (s.freeIdx + 36), false⟩
    cmd := 0#32
    status := Status.cleared
    pending := none
    rdata := if p.req && !p.we then some (Config.freeWord (s.freeIdx + 37)) else none
    agenda := s.agenda
    freeIdx := s.freeIdx + 38 }

/-- The `ready` output: tied to 1, every access completes in its cycle (R60). -/
def ready : Bool := true

/-- One cycle of the host's port (R60, R61): reset before anything else, then a write or a read where `req = 1`. -/
def State.portCycle (s : State) (p : PortIn) : State :=
  if p.rst then s.resetEdge p
  else if p.req then
    if p.we then s.hostWrite p.addr p.wdata else { s with rdata := some (s.hostRead p.addr) }
  else s

/-- Take the next event off the agenda; the read data of an earlier step is no longer on the port (R60). -/
def State.advance (s : State) : State := { s with agenda := s.agenda.tail, rdata := none }

end Sys2Proof.Machine
end

