-- ==== Sys2Proof/Machine/Operands.lean ====
section
/-! DEFINITION. Every operand form of the commands (spec 30_encoding R83): field registers, their low words as limbs, point
registers, IR and A24, all read from the issue snapshot (10_state R45); and the three shapes of command that check operands of
one kind and write one register (40_limb R104, 41_field section 2, 42_point R163, R164). -/

namespace Sys2Proof.Machine

/-- The operand registers as the running command sees them: the issue snapshot (R45). With no command pending they are the
registers themselves (log entry 17). -/
def State.operands (s : State) : Bank :=
  match s.pending with
  | some p => p.snapshot
  | none => s.data

/-- A field-element operand `F[i]` (R83). -/
def State.feOperand (s : State) (i : Fin 16) : Pair := (s.operands.freg i).pair

/-- A limb operand: the low word of `F[i]`; the high word is neither read nor checked (40_limb R104). -/
def State.limbOperand (s : State) (i : Fin 16) : Word := (s.operands.freg i).lo.val

/-- A point operand `P[k]` (R35, R83). -/
def State.pointOperand (s : State) (k : Fin 8) : Point := ⟨s.feOperand (pointX k), s.feOperand (pointZ k)⟩

/-- The implicit operand IR of FFROMINT, as an integer (R36, R83). -/
def State.irOperand (s : State) : Nat := int64 s.operands.ir.pair

/-- The implicit operand A24 of PDBL and PLADDER (R38, R83). -/
def State.a24Operand (s : State) : Pair := s.operands.a24.pair

/-- A24 was written since reset, as the running command sees it: false where it was never written, which PDBL reports (42_point
R163). A half-written A24 is one the engine cannot tell apart (70 R236, log entry 25). -/
def State.a24Written (s : State) : Bool := s.operands.a24.everWritten

/-- The ladder's working registers, where the running command has begun its ladder (43_ladder R186). -/
def State.working (s : State) : Option LadderRegs := s.pending.bind (·.ladder)

/-- A limb command (40_limb R104): both operands must be limb words, or OUT_OF_RANGE_LIMB; `f` gives (hi, lo) of F[rd]. -/
def State.limbCommand (s : State) (f : Nat → Nat → Nat × Nat) (rd rs1 rs2 : Fin 16) : Outcome :=
  let a := s.limbOperand rs1
  let b := s.limbOperand rs2
  if isLimb a && isLimb b then
    (s.writeF rd (limbPair (f a.toNat b.toNat).1 (f a.toNat b.toNat).2)).complete
  else s.raise .outOfRangeLimb

/-- A two-operand field command (41_field section 2): both operands must be valid, or OUT_OF_RANGE_FIELD_ELEMENT; `f` gives
F[rd]. -/
def State.fieldCommand (s : State) (f : Pair → Pair → Pair) (rd rs1 rs2 : Fin 16) : Outcome :=
  let a := s.feOperand rs1
  let b := s.feOperand rs2
  if validFE a && validFE b then (s.writeF rd (f a b)).complete else s.raise .outOfRangeFieldElement

/-- A point command (42_point R163, R164): its operands must be valid, or OUT_OF_RANGE_FIELD_ELEMENT; `p` is the point written
to P[rd]. -/
def State.pointCommand (s : State) (valid : Bool) (rd : Fin 8) (p : Point) : Outcome :=
  if valid then (s.writePoint rd p).complete else s.raise .outOfRangeFieldElement

end Sys2Proof.Machine
end

