-- ==== Sys2Proof/Machine/Field.lean ====
section
/-! DEFINITION. The meanings of the field-element commands (spec 41_field R130 to R136). -/

namespace Sys2Proof.Machine

/-- The ordering code of RESULT: 0 EQUAL, 1 LESS, 2 GREATER (10_state R42). -/
def Order.code : Order → Word
  | .equal => 0#32
  | .less => 1#32
  | .greater => 2#32

/-- FCMP (R130). -/
def execFcmp (rs1 rs2 : Fin 16) (s : State) : Outcome :=
  let a := s.feOperand rs1
  let b := s.feOperand rs2
  if validFE a && validFE b then (s.writeResult (rawCompare a b).code).complete else s.raise .outOfRangeFieldElement

/-- FVAL: an invalid operand is its answer 0, no error (R131). -/
def execFval (rs1 : Fin 16) (s : State) : Outcome :=
  (s.writeResult (if validFE (s.feOperand rs1) then 1#32 else 0#32)).complete

/-- FADD (R132). -/
def execFadd (rd rs1 rs2 : Fin 16) (s : State) : Outcome := s.fieldCommand addCore rd rs1 rs2

/-- FSUB: F[rs1] − F[rs2]; the internal p − b is not validated (R133). -/
def execFsub (rd rs1 rs2 : Fin 16) (s : State) : Outcome := s.fieldCommand subCore rd rs1 rs2

/-- FMUL (R134). -/
def execFmul (rd rs1 rs2 : Fin 16) (s : State) : Outcome := s.fieldCommand mulCore rd rs1 rs2

/-- FFROMINT: every 64-bit integer in IR is accepted (R135). -/
def execFfromint (rd : Fin 16) (s : State) : Outcome := (s.writeF rd (fromIntegerCore s.irOperand)).complete

/-- FTOINT (R136). -/
def execFtoint (rs1 : Fin 16) (s : State) : Outcome :=
  let a := s.feOperand rs1
  if validFE a then (s.writeIR (toIntegerCore a)).complete else s.raise .outOfRangeFieldElement

end Sys2Proof.Machine
end

