-- ==== Sys2Proof/Syntax.lean ====
section
/-! DEFINITION. The 14 commands of MLE61 (spec 30_encoding R82, R85), one constructor per row of the opcode table. -/

namespace Sys2Proof

/-- A field-register index, `F0` to `F15` (30_encoding R82: "F"). -/
abbrev FIdx := Fin 16

/-- A point-register index, `P0` to `P7` (30_encoding R82: "P"). -/
abbrev PIdx := Fin 8

/-- The commands, with their operands in field order RD, RS1, RS2, RS3 (30_encoding R82, R89). -/
inductive Instr where
  | ladd (rd rs1 rs2 : FIdx)
  | laddc (rd rs1 rs2 : FIdx)
  | lsub (rd rs1 rs2 : FIdx)
  | lsubb (rd rs1 rs2 : FIdx)
  | fcmp (rs1 rs2 : FIdx)
  | fval (rs1 : FIdx)
  | fadd (rd rs1 rs2 : FIdx)
  | fsub (rd rs1 rs2 : FIdx)
  | fmul (rd rs1 rs2 : FIdx)
  | ffromint (rd : FIdx)
  | ftoint (rs1 : FIdx)
  | pdbl (rd rs1 : PIdx)
  | padd (rd rs1 rs2 rs3 : PIdx)
  | pladder (rd rs1 : PIdx) (rs2 : FIdx)
  deriving DecidableEq, Repr

end Sys2Proof
end

