-- ==== Sys2Proof/WellFormed.lean ====
section
/-! DEFINITION. When the six fields of a command word make a well-formed command (spec 30_encoding R81, R82, R85, R87): the
opcode is assigned, RES is zero, every field the format marks 0 is zero, and every point field is below 8. -/

namespace Sys2Proof

/-- The fields of a command word (30_encoding R81). -/
structure Fields where
  op : BitVec 8
  rd : BitVec 4
  rs1 : BitVec 4
  rs2 : BitVec 4
  rs3 : BitVec 4
  res : BitVec 8
  deriving DecidableEq, Repr

/-- The operand formats (30_encoding R82). -/
inductive Format where
  | rrr
  | cmp
  | r1
  | d1
  | pp
  | pppp
  | ppf
  deriving DecidableEq, Repr

/-- The format of an opcode; none where the opcode is unassigned (30_encoding R85, R87). -/
def Format.ofOpcode (op : BitVec 8) : Option Format :=
  match op.toNat with
  | 0x01 => some .rrr
  | 0x02 => some .rrr
  | 0x03 => some .rrr
  | 0x04 => some .rrr
  | 0x10 => some .cmp
  | 0x11 => some .r1
  | 0x12 => some .rrr
  | 0x13 => some .rrr
  | 0x14 => some .rrr
  | 0x15 => some .d1
  | 0x16 => some .r1
  | 0x20 => some .pp
  | 0x21 => some .pppp
  | 0x22 => some .ppf
  | _ => none

/-- The use a format makes of one operand field: an F index, a P index, or none (the field must be 0). -/
inductive FieldUse where
  | f
  | p
  | zero
  deriving DecidableEq, Repr

/-- Whether a field's value is allowed for its use: any F index, a P index below 8, only 0 where it is unused (R82). -/
def FieldUse.allows (u : FieldUse) (x : BitVec 4) : Bool :=
  match u with
  | .f => true
  | .p => x.toNat < 8
  | .zero => x == 0

/-- The uses of RD, RS1, RS2 and RS3 in each format (the table of R82). -/
def Format.uses : Format → FieldUse × FieldUse × FieldUse × FieldUse
  | .rrr => (.f, .f, .f, .zero)
  | .cmp => (.zero, .f, .f, .zero)
  | .r1 => (.zero, .f, .zero, .zero)
  | .d1 => (.f, .zero, .zero, .zero)
  | .pp => (.p, .p, .zero, .zero)
  | .pppp => (.p, .p, .p, .p)
  | .ppf => (.p, .p, .f, .zero)

/-- The fields make a well-formed command (R82, R87). -/
def Fields.wellFormed (x : Fields) : Bool :=
  match Format.ofOpcode x.op with
  | none => false
  | some fmt =>
    let (d, a, b, c) := fmt.uses
    d.allows x.rd && a.allows x.rs1 && b.allows x.rs2 && c.allows x.rs3 && x.res == 0

end Sys2Proof
end

