-- ==== Sys2Proof/Decode.lean ====
section
/-! DEFINITION. Decoding a command word (spec 30_encoding R81, R86, R88) and, after it, encoding one (R81, R85, R89), the
assembler text (R89) and the pseudo-commands (R90). -/

namespace Sys2Proof

/-- Split a command word into its fields (R81). -/
def Fields.ofWord (w : Word) : Fields :=
  { op := w.extractLsb' 0 8
    rd := w.extractLsb' 8 4
    rs1 := w.extractLsb' 12 4
    rs2 := w.extractLsb' 16 4
    rs3 := w.extractLsb' 20 4
    res := w.extractLsb' 24 8 }

/-- An F field names `F[n]`, n its value (R83). -/
def fIdx (x : BitVec 4) : FIdx := ⟨x.toNat, x.isLt⟩

/-- A P field names `P[n]`; the mask has checked that bit 3 is 0 (R82, R86). -/
def pIdx (x : BitVec 4) : PIdx := ⟨x.toNat % 8, Nat.mod_lt _ (by decide)⟩

/-- One row of the match and mask table (R86), with the command it selects. -/
structure OpcodeRow where
  matchBits : Word
  mask : Word
  build : Fields → Instr

/-- The rows of the limb commands (R86). -/
def limbRows : List OpcodeRow :=
  [ ⟨0x00000001#32, 0xFFF000FF#32, fun x => .ladd (fIdx x.rd) (fIdx x.rs1) (fIdx x.rs2)⟩,
    ⟨0x00000002#32, 0xFFF000FF#32, fun x => .laddc (fIdx x.rd) (fIdx x.rs1) (fIdx x.rs2)⟩,
    ⟨0x00000003#32, 0xFFF000FF#32, fun x => .lsub (fIdx x.rd) (fIdx x.rs1) (fIdx x.rs2)⟩,
    ⟨0x00000004#32, 0xFFF000FF#32, fun x => .lsubb (fIdx x.rd) (fIdx x.rs1) (fIdx x.rs2)⟩ ]

/-- The rows of the field commands (R86). -/
def fieldRows : List OpcodeRow :=
  [ ⟨0x00000010#32, 0xFFF00FFF#32, fun x => .fcmp (fIdx x.rs1) (fIdx x.rs2)⟩,
    ⟨0x00000011#32, 0xFFFF0FFF#32, fun x => .fval (fIdx x.rs1)⟩,
    ⟨0x00000012#32, 0xFFF000FF#32, fun x => .fadd (fIdx x.rd) (fIdx x.rs1) (fIdx x.rs2)⟩,
    ⟨0x00000013#32, 0xFFF000FF#32, fun x => .fsub (fIdx x.rd) (fIdx x.rs1) (fIdx x.rs2)⟩,
    ⟨0x00000014#32, 0xFFF000FF#32, fun x => .fmul (fIdx x.rd) (fIdx x.rs1) (fIdx x.rs2)⟩,
    ⟨0x00000015#32, 0xFFFFF0FF#32, fun x => .ffromint (fIdx x.rd)⟩,
    ⟨0x00000016#32, 0xFFFF0FFF#32, fun x => .ftoint (fIdx x.rs1)⟩ ]

/-- The rows of the curve commands (R86). -/
def curveRows : List OpcodeRow :=
  [ ⟨0x00000020#32, 0xFFFF88FF#32, fun x => .pdbl (pIdx x.rd) (pIdx x.rs1)⟩,
    ⟨0x00000021#32, 0xFF8888FF#32, fun x => .padd (pIdx x.rd) (pIdx x.rs1) (pIdx x.rs2) (pIdx x.rs3)⟩,
    ⟨0x00000022#32, 0xFFF088FF#32, fun x => .pladder (pIdx x.rd) (pIdx x.rs1) (fIdx x.rs2)⟩ ]

/-- The whole table of R86. -/
def opcodeRows : List OpcodeRow := limbRows ++ fieldRows ++ curveRows

/-- A word selects a row when `(w & mask) == match` (R86). -/
def OpcodeRow.selects (r : OpcodeRow) (w : Word) : Bool := w &&& r.mask == r.matchBits

/-- The decoder of R88, total on all 32-bit words; `none` is an illegal command (R87). -/
def decode (w : Word) : Option Instr :=
  (opcodeRows.find? (·.selects w)).map fun r => r.build (Fields.ofWord w)

/-- The command word an instruction of the opcode table stands for: `nbits` of it are given, the bits above are 0. Every
command is one 32-bit word (R80). -/
def tableWord (nbits w : Nat) : Word := BitVec.ofNat 32 (w % 2 ^ nbits)

/-- The instruction the decoder reads from an instruction whose low `nbits` bits are `w`; no command is longer than one
32-bit word (R80). -/
def decodeTableWord (nbits w : Nat) : Option Instr :=
  if nbits ≤ 32 then decode (tableWord nbits w) else none

/-- `OP | RD<<8 | RS1<<12 | RS2<<16 | RS3<<20` (R89). -/
def commandWord (op rd rs1 rs2 rs3 : Nat) : Word :=
  BitVec.ofNat 32 op ||| BitVec.ofNat 32 rd <<< 8 ||| BitVec.ofNat 32 rs1 <<< 12 ||| BitVec.ofNat 32 rs2 <<< 16
    ||| BitVec.ofNat 32 rs3 <<< 20

/-- The word of a command: its opcode (R85) and its operands in their fields (R81), every other bit 0 (R82). -/
def encode : Instr → Word
  | .ladd rd rs1 rs2 => commandWord 0x01 rd rs1 rs2 0
  | .laddc rd rs1 rs2 => commandWord 0x02 rd rs1 rs2 0
  | .lsub rd rs1 rs2 => commandWord 0x03 rd rs1 rs2 0
  | .lsubb rd rs1 rs2 => commandWord 0x04 rd rs1 rs2 0
  | .fcmp rs1 rs2 => commandWord 0x10 0 rs1 rs2 0
  | .fval rs1 => commandWord 0x11 0 rs1 0 0
  | .fadd rd rs1 rs2 => commandWord 0x12 rd rs1 rs2 0
  | .fsub rd rs1 rs2 => commandWord 0x13 rd rs1 rs2 0
  | .fmul rd rs1 rs2 => commandWord 0x14 rd rs1 rs2 0
  | .ffromint rd => commandWord 0x15 rd 0 0 0
  | .ftoint rs1 => commandWord 0x16 0 rs1 0 0
  | .pdbl rd rs1 => commandWord 0x20 rd rs1 0 0
  | .padd rd rs1 rs2 rs3 => commandWord 0x21 rd rs1 rs2 rs3
  | .pladder rd rs1 rs2 => commandWord 0x22 rd rs1 rs2 0

/-- Field registers are written `F0` to `F15` (R89). -/
def fName (i : FIdx) : String := "F" ++ toString i.val

/-- Point registers are written `P0` to `P7` (R89). -/
def pName (k : PIdx) : String := "P" ++ toString k.val

/-- The assembler text of a command (R89): its mnemonic and its operands in field order. -/
def Instr.asm : Instr → String
  | .ladd rd rs1 rs2 => "LADD " ++ fName rd ++ ", " ++ fName rs1 ++ ", " ++ fName rs2
  | .laddc rd rs1 rs2 => "LADDC " ++ fName rd ++ ", " ++ fName rs1 ++ ", " ++ fName rs2
  | .lsub rd rs1 rs2 => "LSUB " ++ fName rd ++ ", " ++ fName rs1 ++ ", " ++ fName rs2
  | .lsubb rd rs1 rs2 => "LSUBB " ++ fName rd ++ ", " ++ fName rs1 ++ ", " ++ fName rs2
  | .fcmp rs1 rs2 => "FCMP " ++ fName rs1 ++ ", " ++ fName rs2
  | .fval rs1 => "FVAL " ++ fName rs1
  | .fadd rd rs1 rs2 => "FADD " ++ fName rd ++ ", " ++ fName rs1 ++ ", " ++ fName rs2
  | .fsub rd rs1 rs2 => "FSUB " ++ fName rd ++ ", " ++ fName rs1 ++ ", " ++ fName rs2
  | .fmul rd rs1 rs2 => "FMUL " ++ fName rd ++ ", " ++ fName rs1 ++ ", " ++ fName rs2
  | .ffromint rd => "FFROMINT " ++ fName rd
  | .ftoint rs1 => "FTOINT " ++ fName rs1
  | .pdbl rd rs1 => "PDBL " ++ pName rd ++ ", " ++ pName rs1
  | .padd rd rs1 rs2 rs3 => "PADD " ++ pName rd ++ ", " ++ pName rs1 ++ ", " ++ pName rs2 ++ ", " ++ pName rs3
  | .pladder rd rs1 rs2 => "PLADDER " ++ pName rd ++ ", " ++ pName rs1 ++ ", " ++ fName rs2

/-- `FSQR Fd, Fa` (R90). -/
def pseudoFsqr (fd fa : FIdx) : Instr := .fmul fd fa fa

/-- `FNEG Fd, Fa, Fz`, correct only when `Fz` holds 0 (R90). -/
def pseudoFneg (fd fa fz : FIdx) : Instr := .fsub fd fz fa

/-- `FMOV Fd, Fa, Fo`, correct only when `Fo` holds 1 (R90). -/
def pseudoFmov (fd fa fo : FIdx) : Instr := .fmul fd fa fo

end Sys2Proof
end

