-- ==== Sys2Proof/Machine/Ladder.lean ====
section
/-! DEFINITION. The meaning of PLADDER (spec 43_ladder R180 to R184) and the engine's hidden progress on it (R185, R186). -/

namespace Sys2Proof.Machine

/-- The working registers when the ladder begins: R = D, S = 2D, and the bits below the leading 1-bit still to process
(R180, R186). -/
def LadderRegs.start (d : Point) (k : Nat) (a24 : Pair) : LadderRegs :=
  { d := d, r := (ladderInit d a24).1, s := (ladderInit d a24).2, todo := bitlen k - 1 }

/-- One iteration on the working registers; nothing when no bit is left (R180, R186). -/
def LadderRegs.step (k : Nat) (a24 : Pair) (g : LadderRegs) : LadderRegs :=
  match g.todo with
  | 0 => g
  | n + 1 =>
    { d := g.d
      r := (ladderIter g.d a24 (k.testBit n) (g.r, g.s)).1
      s := (ladderIter g.d a24 (k.testBit n) (g.r, g.s)).2
      todo := n }

/-- The running points after the iterations that are left (R180). -/
def LadderRegs.finish (k : Nat) (a24 : Pair) (g : LadderRegs) : Point × Point :=
  ladderLoop g.d k a24 g.todo (g.r, g.s)

/-- The operands of a PLADDER pass their checks: base point, scalar and A24, also when the scalar is 0 (R184). -/
def State.ladderOperandsValid (s : State) (rs1 : Fin 8) (rs2 : Fin 16) : Bool :=
  validPoint (s.pointOperand rs1) && validFE (s.feOperand rs2) && validFE s.a24Operand

/-- The point a PLADDER with a nonzero scalar commits: the ladder carried on from the working registers where it has begun,
else run from its start (R180, R186). -/
def State.ladderPoint (s : State) (rs1 : Fin 8) (rs2 : Fin 16) : Point :=
  let k := val (s.feOperand rs2)
  match s.working with
  | some g => (g.finish k s.a24Operand).1
  | none => ((LadderRegs.start (s.pointOperand rs1) k s.a24Operand).finish k s.a24Operand).1

/-- PLADDER (R184): the operand checks, then the zero scalar, which gives (1, 0) and DEGEN = 1 (R181, R205), then the ladder
(R180). -/
def execPladder (rd rs1 : Fin 8) (rs2 : Fin 16) (s : State) : Outcome :=
  if s.ladderOperandsValid rs1 rs2 then
    if val (s.feOperand rs2) = 0 then .next ((s.writePoint rd ladderZero).commit .ok true)
    else (s.writePoint rd (s.ladderPoint rs1 rs2)).complete
  else s.raise .outOfRangeFieldElement

/-- The working registers after one more piece of hidden progress. -/
def State.ladderProgress (s : State) (rs1 : Fin 8) (rs2 : Fin 16) : LadderRegs :=
  let k := val (s.feOperand rs2)
  match s.working with
  | some g => g.step k s.a24Operand
  | none => LadderRegs.start (s.pointOperand rs1) k s.a24Operand

/-- Whether the running command is a PLADDER that runs its loop: valid operands and a nonzero scalar (R181, R208). -/
def State.ladderRuns (s : State) (rs1 : Fin 8) (rs2 : Fin 16) : Bool :=
  s.ladderOperandsValid rs1 rs2 && val (s.feOperand rs2) != 0

/-- Hidden progress of the engine (R186): a PLADDER that runs its loop sets up its working registers or does one iteration;
nothing the host can read changes, and other commands have no hidden progress. -/
def State.work (s : State) : State :=
  match s.pending with
  | none => s
  | some p =>
    match decode p.word with
    | some (.pladder _ rs1 rs2) =>
      if s.ladderRuns rs1 rs2 then { s with pending := some { p with ladder := some (s.ladderProgress rs1 rs2) } } else s
    | _ => s

end Sys2Proof.Machine
end

