-- ==== Sys2Proof/Machine/Limb.lean ====
section
/-! DEFINITION. The meanings of the limb commands (spec 40_limb R104 to R108). -/

namespace Sys2Proof.Machine

/-- LADD (R105). -/
def execLadd (rd rs1 rs2 : Fin 16) (s : State) : Outcome :=
  s.limbCommand (fun a b => (0, addLimb a b)) rd rs1 rs2

/-- LADDC: hi = carry, lo = sum (R106). -/
def execLaddc (rd rs1 rs2 : Fin 16) (s : State) : Outcome :=
  s.limbCommand (fun a b => ((addLimbWithCarry a b).2, (addLimbWithCarry a b).1)) rd rs1 rs2

/-- LSUB (R107). -/
def execLsub (rd rs1 rs2 : Fin 16) (s : State) : Outcome :=
  s.limbCommand (fun a b => (0, subLimb a b)) rd rs1 rs2

/-- LSUBB: hi = borrow, lo = difference (R108). -/
def execLsubb (rd rs1 rs2 : Fin 16) (s : State) : Outcome :=
  s.limbCommand (fun a b => ((subLimbWithBorrow a b).2, (subLimbWithBorrow a b).1)) rd rs1 rs2

end Sys2Proof.Machine
end

