-- ==== Sys2Proof/Machine/Point.lean ====
section
/-! DEFINITION. The meanings of the point commands (spec 42_point R163, R164). -/

namespace Sys2Proof.Machine

/-- PDBL (R163): X, Z and A24 must be valid, and A24 must have been written since reset. -/
def execPdbl (rd rs1 : Fin 8) (s : State) : Outcome :=
  let p := s.pointOperand rs1
  let a24 := s.a24Operand
  s.pointCommand (validPoint p && validFE a24 && s.a24Written) rd (doubleCP p a24)

/-- PADD (R164); the difference precondition is not checked (R162). -/
def execPadd (rd rs1 rs2 rs3 : Fin 8) (s : State) : Outcome :=
  let p1 := s.pointOperand rs1
  let p2 := s.pointOperand rs2
  let pd := s.pointOperand rs3
  s.pointCommand (validPoint p1 && validPoint p2 && validPoint pd) rd (addCP p1 p2 pd)

end Sys2Proof.Machine
end

