-- ==== Sys2Proof/Machine/Dispatch.lean ====
section
/-! DEFINITION. One arm per command: its meaning. -/

namespace Sys2Proof.Machine

def exec (i : Instr) (s : State) : Host.Outcome State Fault Refusal :=
  match i with
  | .ladd rd rs1 rs2 => Sys2Proof.Machine.execLadd rd rs1 rs2 s
  | .laddc rd rs1 rs2 => Sys2Proof.Machine.execLaddc rd rs1 rs2 s
  | .lsub rd rs1 rs2 => Sys2Proof.Machine.execLsub rd rs1 rs2 s
  | .lsubb rd rs1 rs2 => Sys2Proof.Machine.execLsubb rd rs1 rs2 s
  | .fcmp rs1 rs2 => Sys2Proof.Machine.execFcmp rs1 rs2 s
  | .fval rs1 => Sys2Proof.Machine.execFval rs1 s
  | .fadd rd rs1 rs2 => Sys2Proof.Machine.execFadd rd rs1 rs2 s
  | .fsub rd rs1 rs2 => Sys2Proof.Machine.execFsub rd rs1 rs2 s
  | .fmul rd rs1 rs2 => Sys2Proof.Machine.execFmul rd rs1 rs2 s
  | .ffromint rd => Sys2Proof.Machine.execFfromint rd s
  | .ftoint rs1 => Sys2Proof.Machine.execFtoint rs1 s
  | .pdbl rd rs1 => Sys2Proof.Machine.execPdbl rd rs1 s
  | .padd rd rs1 rs2 rs3 => Sys2Proof.Machine.execPadd rd rs1 rs2 rs3 s
  | .pladder rd rs1 rs2 => Sys2Proof.Machine.execPladder rd rs1 rs2 s

end Sys2Proof.Machine
end

