-- ==== Sys2Proof/Machine/Engine.lean ====
section
/-! DEFINITION. The engine's commit of the running command, one event of the machine, and placing a command (spec 00_scope
R17, 10_state R39, R41, 70 R240). -/

namespace Sys2Proof.Machine

/-- The engine's commit of the running command: its meaning where the word decodes, ILLEGAL_COMMAND where it does not
(30_encoding R87, 60_exceptions R204). An idle engine does nothing. -/
def engineCommit (s : State) : Outcome :=
  match s.pending with
  | none => .next s
  | some p =>
    match decode p.word with
    | some i => exec i s
    | none => s.raise .illegalCommand

/-- One event: a cycle of the host's port, hidden progress of the engine, or its commit (00_scope R17). -/
def runEvent (e : Event) (s : State) : Outcome :=
  match e with
  | .host p => .next (s.portCycle p)
  | .work => .next s.work
  | .commit => engineCommit s

/-- `s` with the command word `w` issued, as a host write to CMD of an idle engine issues it (10_state R39), and the engine's
commit as the next event. -/
def State.placeCommand (s : State) (w : Word) : State := { s.issue w with agenda := .commit :: s.agenda }

end Sys2Proof.Machine
end

