-- ==== Sys2Proof/Machine/Step.lean ====
section
/-! DEFINITION. One step of the machine: the next event of the agenda, or, when the agenda is empty, the engine's commit; and
how a command word is placed so that the next step runs it. -/

namespace Sys2Proof.Machine

/-- One step. The agenda fixes which agent moves; when it is empty the engine commits what is pending, so that a state with
BUSY = 1 is never final (70 R242). -/
def step (s : State) : Host.Outcome State Fault Refusal :=
  match s.agenda with
  | [] => engineCommit s.advance
  | e :: _ => runEvent e s.advance

/-- `s` with an instruction of the opcode table placed where the next step runs it (log entry 6). -/
def State.withFetchWord (s : State) (nbits w : Nat) : State := s.placeCommand (tableWord nbits w)

end Sys2Proof.Machine
end

