-- ==== Sys2Proof/Machine/HostOps.lean ====
section
/-! DEFINITION. The host's pseudo-operations as pieces of an agenda (spec 30_encoding R91), and the pins of one access
(20_memory R60). -/

namespace Sys2Proof.Machine

/-- The pins of a write access. -/
def PortIn.write (addr : BitVec 8) (v : Word) : PortIn := ⟨false, true, true, addr, v⟩

/-- The pins of a read access; `wdata` has no meaning in it (R60). -/
def PortIn.read (addr : BitVec 8) : PortIn := ⟨false, true, false, addr, 0#32⟩

/-- `MemWrite(off, 4, v)`. -/
def memWrite (off : BitVec 8) (v : Word) : Event := .host (PortIn.write off v)

/-- `MemRead(off, 4)`. -/
def memRead (off : BitVec 8) : Event := .host (PortIn.read off)

/-- `LDF Fi, v`, for `v < 2^62`. -/
def ldf (i : Fin 16) (v : Nat) : List Event :=
  [memWrite (BitVec.ofNat 8 (8 * i.val)) (fe v).lo, memWrite (BitVec.ofNat 8 (8 * i.val + 4)) (fe v).hi]

/-- `LDIR v`, for `v < 2^64`. -/
def ldir (v : Nat) : List Event := [memWrite 0x80#8 (int64Pair v).lo, memWrite 0x84#8 (int64Pair v).hi]

/-- `LDA24 v`, for `v < 2^62`. -/
def lda24 (v : Nat) : List Event := [memWrite 0x88#8 (fe v).lo, memWrite 0x8C#8 (fe v).hi]

/-- `ISSUE w`. -/
def issueWord (w : Word) : List Event := [memWrite 0x98#8 w]

/-- `WAIT`, with `polls` reads of STATUS before the engine's commit and the read that returns BUSY = 0 after it. Every number
of polls is an agenda of its own (log entry 5). -/
def waitDone (polls : Nat) : List Event := List.replicate polls (memRead 0x9C#8) ++ [.commit, memRead 0x9C#8]

/-- `CLRERR`. -/
def clrErr : List Event := [memWrite 0x9C#8 0x300#32]

end Sys2Proof.Machine
end

