-- ==== Sys2Proof/Safety.lean ====
section
/-! DEFINITION. The terms claims use: which operand words a command reads and whether the host has written them (spec 10_state
R48, 70 R233), when two states differ in unwritten words only, the invariant that every step keeps (10_state R40 to R42, R45,
43_ladder R186), final states (70 R242), and the frame of a commit. -/

namespace Sys2Proof.Machine

/-! ### Canonical operands -/

/-- A valid field element (00_scope R13): both words are limbs and the value is below p. -/
def Canonical (e : Pair) : Prop := e.hi.toNat < 2147483648 ∧ e.lo.toNat < 2147483648 ∧ val e < Config.p

/-- A valid point (00_scope R13). -/
def CanonicalPoint (p : Point) : Prop := Canonical p.x ∧ Canonical p.z

/-- The residue class a pair denotes in GF(p). -/
def residue (e : Pair) : ZMod Config.p := (val e : ZMod Config.p)

/-! ### Operand words -/

/-- Both words of a field register. -/
def fWords (i : Fin 16) : List DataWord := [.f i .lo, .f i .hi]

/-- The four words of a point register (R35). -/
def pWords (k : Fin 8) : List DataWord := fWords (pointX k) ++ fWords (pointZ k)

/-- Both words of A24. -/
def a24Words : List DataWord := [.a24 .lo, .a24 .hi]

/-- The words of the operand registers a command reads (30_encoding R83); a limb command reads low words only (40_limb
R104). -/
def operandWords : Instr → List DataWord
  | .ladd _ rs1 rs2 => [.f rs1 .lo, .f rs2 .lo]
  | .laddc _ rs1 rs2 => [.f rs1 .lo, .f rs2 .lo]
  | .lsub _ rs1 rs2 => [.f rs1 .lo, .f rs2 .lo]
  | .lsubb _ rs1 rs2 => [.f rs1 .lo, .f rs2 .lo]
  | .fcmp rs1 rs2 => fWords rs1 ++ fWords rs2
  | .fval rs1 => fWords rs1
  | .fadd _ rs1 rs2 => fWords rs1 ++ fWords rs2
  | .fsub _ rs1 rs2 => fWords rs1 ++ fWords rs2
  | .fmul _ rs1 rs2 => fWords rs1 ++ fWords rs2
  | .ffromint _ => [.ir .lo, .ir .hi]
  | .ftoint rs1 => fWords rs1
  | .pdbl _ rs1 => pWords rs1 ++ a24Words
  | .padd _ rs1 rs2 rs3 => pWords rs1 ++ pWords rs2 ++ pWords rs3
  | .pladder _ rs1 rs2 => pWords rs1 ++ fWords rs2 ++ a24Words

/-- Every word the command reads was written since reset: what the host owes before it issues it (R48, R233). -/
def State.operandsWritten (s : State) (i : Instr) : Prop :=
  ∀ d ∈ operandWords i, (s.operands.word d).written = true

/-! ### States that differ in unwritten words only -/

/-- The same mark, and the same value where it is written. -/
def RegWord.Agree (a b : RegWord) : Prop := a.written = b.written ∧ (a.written = true → a.val = b.val)

/-- Two banks agree on their written words. -/
def Bank.Agree (a b : Bank) : Prop := ∀ d, (a.word d).Agree (b.word d)

/-- Two states agree on everything but the values of unwritten words; of the running command, on the word, the written words
of the snapshot and the ladder's working registers. -/
structure State.Agree (s t : State) : Prop where
  data : s.data.Agree t.data
  result : s.result.Agree t.result
  cmd : s.cmd = t.cmd
  status : s.status = t.status
  word : s.pending.map (·.word) = t.pending.map (·.word)
  ladder : s.working = t.working
  operands : s.operands.Agree t.operands
  rdata : s.rdata = t.rdata
  agenda : s.agenda = t.agenda
  freeIdx : s.freeIdx = t.freeIdx

/-! ### The invariant -/

/-- The working registers `g` belong to the running command: it is a PLADDER with valid operands and a nonzero scalar, `g`
holds its base point and at most bitlen(k) − 1 bits to process, and what is left of the ladder from `g` ends where the whole
ladder ends (43_ladder R180, R186). -/
def State.LadderOk (s : State) (p : Pending) (g : LadderRegs) : Prop :=
  ∃ rd rs1 rs2, decode p.word = some (.pladder rd rs1 rs2) ∧ s.ladderRuns rs1 rs2 = true ∧
    g.d = s.pointOperand rs1 ∧ g.todo ≤ bitlen (val (s.feOperand rs2)) - 1 ∧
    g.finish (val (s.feOperand rs2)) s.a24Operand =
      ladderLoop g.d (val (s.feOperand rs2)) s.a24Operand (bitlen (val (s.feOperand rs2)) - 1)
        (ladderInit g.d s.a24Operand)

/-- What every step keeps: the running command is the word CMD reads back, its snapshot still equals the registers (R45) and
its working registers belong to it; DEGEN is 1 only with CODE = OK (R41); RESULT, once written, is 0, 1 or 2 (R42). -/
structure State.Inv (s : State) : Prop where
  latched : ∀ p, s.pending = some p → p.word = s.cmd
  snapshot : ∀ p, s.pending = some p → p.snapshot = s.data
  ladder : ∀ p g, s.pending = some p → p.ladder = some g → s.LadderOk p g
  degen : s.status.degen = true → s.status.code = .ok
  result : s.result.written = true → s.result.val.toNat ≤ 2

/-- A final state: the host has no further access to make and BUSY = 0 (70 R242). -/
def State.final (s : State) : Prop := s.agenda = [] ∧ s.busy = false

/-- The engine's commit is the next event: it heads the agenda, or the agenda is empty (70 R240, R242). -/
def State.commitNext (s : State) : Prop := s.agenda = [] ∨ s.agenda.head? = some .commit

/-- The next event is a cycle of the host's port with these pins. -/
def State.hostNext (s : State) (p : PortIn) : Prop := s.agenda.head? = some (.host p)

/-- The pins present a host write, outside reset, to a register of the window (20_memory R60). -/
def PortIn.writes (p : PortIn) (r : WindowReg) : Prop :=
  p.rst = false ∧ p.req = true ∧ p.we = true ∧ windowReg p.addr = r

/-! ### Frames -/

/-- From `s` to `t` nothing changed but STATUS, BUSY and what is named: field registers that satisfy `mayF`, IR where `mayIR`,
RESULT where `mayResult`. A24, CMD, OVR, the port, the agenda and the free values never change at a commit. -/
structure State.Frame (s t : State) (mayF : Fin 16 → Prop) (mayIR mayResult : Prop) : Prop where
  f : ∀ i, ¬ mayF i → t.data.freg i = s.data.freg i
  ir : ¬ mayIR → t.data.ir = s.data.ir
  a24 : t.data.a24 = s.data.a24
  result : ¬ mayResult → t.result = s.result
  cmd : t.cmd = s.cmd
  ovr : t.status.ovr = s.status.ovr
  rdata : t.rdata = s.rdata
  agenda : t.agenda = s.agenda
  freeIdx : t.freeIdx = s.freeIdx

/-- `t` is `s` after a commit with code OK: BUSY = 0, CODE = OK, DEGEN as given, ERR kept (R41). -/
structure State.CommittedOk (s t : State) (degen : Bool) : Prop where
  busy : t.pending = none
  code : t.status.code = .ok
  degen : t.status.degen = degen
  err : t.status.err = s.status.err

/-- `t` is `s` after a commit with error code `c`: BUSY = 0, CODE = c, DEGEN = 0, ERR = 1, and nothing else changed
(60_exceptions R201). -/
structure State.CommittedError (s t : State) (c : CompletionCode) : Prop where
  busy : t.pending = none
  code : t.status.code = c
  degen : t.status.degen = false
  err : t.status.err = true
  frame : s.Frame t (fun _ => False) False False

/-- `t` is `s` after a commit with code OK that wrote `F[rd]` and nothing else. -/
def State.CommitsF (s t : State) (rd : Fin 16) (p : Pair) : Prop :=
  t.data.freg rd = Reg.put p ∧ s.CommittedOk t false ∧ s.Frame t (fun i => i = rd) False False

/-- `t` is `s` after a commit with code OK that wrote `P[rd]`, so `F[2·rd]` and `F[2·rd+1]`, and nothing else. -/
def State.CommitsP (s t : State) (rd : Fin 8) (p : Point) (degen : Bool) : Prop :=
  t.data.freg (pointX rd) = Reg.put p.x ∧ t.data.freg (pointZ rd) = Reg.put p.z ∧ s.CommittedOk t degen ∧
    s.Frame t (fun i => i = pointX rd ∨ i = pointZ rd) False False

/-- The registers of the window a command writes, STATUS apart (30_encoding R83). -/
def destinations : Instr → List WindowReg
  | .ladd rd _ _ => (fWords rd).map .data
  | .laddc rd _ _ => (fWords rd).map .data
  | .lsub rd _ _ => (fWords rd).map .data
  | .lsubb rd _ _ => (fWords rd).map .data
  | .fcmp _ _ => [.result]
  | .fval _ => [.result]
  | .fadd rd _ _ => (fWords rd).map .data
  | .fsub rd _ _ => (fWords rd).map .data
  | .fmul rd _ _ => (fWords rd).map .data
  | .ffromint rd => (fWords rd).map .data
  | .ftoint _ => [.data (.ir .lo), .data (.ir .hi)]
  | .pdbl rd _ => (pWords rd).map .data
  | .padd rd _ _ _ => (pWords rd).map .data
  | .pladder rd _ _ => (pWords rd).map .data

end Sys2Proof.Machine
end

