-- ==== Sys2Proof/Certificates/Slice0/Obligations.lean ====
section
/-! DEFINITION. The statements for the provers. Operands are read through `State.operands`, the issue snapshot (R45): with no
command pending, and in every state that satisfies `State.Inv`, they are the registers themselves (StepKeepsInv). -/

open Sys2Proof Sys2Proof.Machine

/-! ### Encoding -/

/-- R81, R82, R85, R89: decoding the word of a command gives the command, for every command and every operand. -/
def Obligations.DecodeInvertsEncode : Prop := ∀ i : Instr, decode (encode i) = some i

/-- R86, R88: a word that decodes is the word of the command it decodes to; no bit of it is dropped. -/
def Obligations.EncodeInvertsDecode : Prop := ∀ (w : Word) (i : Instr), decode w = some i → encode i = w

/-- R82, R87: the words that decode are exactly those whose fields their format allows. -/
def Obligations.DecodesExactlyWellFormedWords : Prop := ∀ w : Word, (decode w).isSome = (Fields.ofWord w).wellFormed

/-- R86: the match and mask table, each row with the command it selects, and no two rows match the same word. -/
def Obligations.OpcodeTableRowsDisjoint : Prop :=
  (opcodeRows.map fun r => (r.build ⟨0, 0, 0, 0, 0, 0⟩, r.matchBits, r.mask)) =
    [(.ladd 0 0 0, 0x00000001#32, 0xFFF000FF#32), (.laddc 0 0 0, 0x00000002#32, 0xFFF000FF#32),
     (.lsub 0 0 0, 0x00000003#32, 0xFFF000FF#32), (.lsubb 0 0 0, 0x00000004#32, 0xFFF000FF#32),
     (.fcmp 0 0, 0x00000010#32, 0xFFF00FFF#32), (.fval 0, 0x00000011#32, 0xFFFF0FFF#32),
     (.fadd 0 0 0, 0x00000012#32, 0xFFF000FF#32), (.fsub 0 0 0, 0x00000013#32, 0xFFF000FF#32),
     (.fmul 0 0 0, 0x00000014#32, 0xFFF000FF#32), (.ffromint 0, 0x00000015#32, 0xFFFFF0FF#32),
     (.ftoint 0, 0x00000016#32, 0xFFFF0FFF#32), (.pdbl 0 0, 0x00000020#32, 0xFFFF88FF#32),
     (.padd 0 0 0 0, 0x00000021#32, 0xFF8888FF#32), (.pladder 0 0 0, 0x00000022#32, 0xFFF088FF#32)] ∧
  (∀ (w : Word), ∀ r ∈ opcodeRows, r.selects w = true ↔ w &&& r.mask = r.matchBits) ∧
  (∀ (w : Word), ∀ r ∈ opcodeRows, ∀ q ∈ opcodeRows, r.selects w = true → q.selects w = true →
    r.matchBits = q.matchBits)

/-- R89: the example words of the assembler forms decode to their commands. -/
def Obligations.AssemblerExampleWordsDecode : Prop :=
  decode 0x00010201#32 = some (.ladd 2 0 1) ∧ decode 0x00010214#32 = some (.fmul 2 0 1) ∧
  decode 0x00010010#32 = some (.fcmp 0 1) ∧ decode 0x00003011#32 = some (.fval 3) ∧
  decode 0x00003016#32 = some (.ftoint 3) ∧ decode 0x00000415#32 = some (.ffromint 4) ∧
  decode 0x00000120#32 = some (.pdbl 1 0) ∧ decode 0x00021321#32 = some (.padd 3 1 2 0) ∧
  decode 0x00050122#32 = some (.pladder 1 0 5)

/-! ### The step -/

/-- 00_scope R17, 70 R240: when the engine's commit is next, a step runs the decoded command; and a command placed by
`withFetchWord` (log entry 6) is what the next step runs. -/
def Obligations.StepRunsDecodedCommand : Prop :=
  (∀ (s : State) (p : Pending) (i : Instr), s.pending = some p → decode p.word = some i → s.commitNext →
    step s = exec i s.advance) ∧
  (∀ (s : State) (nbits w : Nat) (i : Instr), decodeTableWord nbits w = some i →
    step (s.withFetchWord nbits w) = exec i { s.issue (tableWord nbits w) with rdata := none })

/-- 60_exceptions R204: an issued word that decodes to no opcode commits with ILLEGAL_COMMAND (code 2) and writes nothing
but STATUS. -/
def Obligations.IllegalWordCommitsIllegalCommand : Prop :=
  (CompletionCode.illegalCommand.num = 2) ∧
  ∀ (s : State) (p : Pending), s.pending = some p → decode p.word = none → s.commitNext →
    ∃ t, step s = .next t ∧ s.advance.CommittedError t .illegalCommand

/-- 60_exceptions R210, R219: MLE61 has no trap: every step of every state gives a next state; and an idle machine with no
access to make stays as it is. That no step faults at an unwritten word is the model's choice (log entry 2). -/
def Obligations.EveryStepGivesNextState : Prop :=
  (∀ s : State, ∃ t, step s = .next t) ∧
  (∀ s : State, s.final → step s = .next { s with rdata := none })

/-- 70 R240, R242: the steps of an agenda and one more end in a final state; where no reset is on the agenda, the steps of a
run with a command pending come to the commit of that very command, which is then the next event. That an empty agenda commits
is the model's form of the spec's fairness (log entry 5). -/
def Obligations.AgendaThenCommitIsFinal : Prop :=
  ∀ s : State,
    (∃ t, Host.Core.run core (s.agenda.length + 1) s = .next t ∧ t.final) ∧
    (∀ w, s.pending.map (·.word) = some w → (∀ p, Event.host p ∈ s.agenda → p.rst = false) →
      ∃ n u, n ≤ s.agenda.length ∧ Host.Core.run core n s = .next u ∧ u.pending.map (·.word) = some w ∧ u.commitNext)

/-! ### Invariants -/

/-- 10_state R47: the reset state: STATUS and CMD read 0, nothing is pending, every data register is marked unwritten; and it
satisfies the invariant. The values of the unwritten words are the model's choice (log entry 1) and are not stated. -/
def Obligations.ResetState : Prop :=
  State.reset.hostRead 0x9C#8 = 0#32 ∧ State.reset.hostRead 0x98#8 = 0#32 ∧ State.reset.pending = none ∧
  (∀ d, (State.reset.data.word d).written = false) ∧ State.reset.result.written = false ∧ State.reset.Inv

/-- 10_state R41, R42, R45, 43_ladder R186: every step keeps the invariant; so the operands a command reads are always the
registers' contents. -/
def Obligations.StepKeepsInv : Prop :=
  ∀ s t : State, s.Inv → step s = .next t → t.Inv ∧ s.operands = s.data ∧ t.operands = t.data

/-- 10_state R45, 20_memory R67, R72: while a command runs, no event but its commit or a reset changes an operand register,
RESULT, CMD, CODE, DEGEN or the snapshot, and the command stays pending. -/
def Obligations.RunningCommandIsUndisturbed : Prop :=
  ∀ (s t : State) (e : Event), s.busy = true → e ≠ .commit → (∀ p, e = .host p → p.rst = false) →
    runEvent e s = .next t →
    t.data = s.data ∧ t.result = s.result ∧ t.cmd = s.cmd ∧ t.status.code = s.status.code ∧
      t.status.degen = s.status.degen ∧ t.operands = s.operands ∧
      t.pending.map (·.word) = s.pending.map (·.word)

/-- 43_ladder R186: hidden progress changes nothing the host can read, and not what the command commits. The
events it is made of are the model's (log entry 9). -/
def Obligations.HiddenProgressIsInvisible : Prop :=
  (∀ (s : State) (addr : BitVec 8), s.work.hostRead addr = s.hostRead addr) ∧
  (∀ s : State, engineCommit s.work = engineCommit s)

/-- 43_ladder R180, R182: after any number of iterations the working register R holds exactly the ladder's point for k', the
integer formed by the bits processed so far, and S holds exactly the ladder's point for k' + 1. -/
def Obligations.LadderRegisterHoldsPrefixMultiple : Prop :=
  ∀ (d : Point) (k : Nat) (a24 : Pair) (n : Nat), 0 < k →
    let g := (LadderRegs.step k a24)^[n] (LadderRegs.start d k a24)
    g.d = d ∧ g.r = ladder d (k / 2 ^ g.todo) a24 ∧ g.s = ladder d (k / 2 ^ g.todo + 1) a24

/-- 43_ladder R185: exactly bitlen(k) − 1 iterations, at most 60 for k < p, end the ladder, and R is then its result. -/
def Obligations.LadderIterationCountIsExact : Prop :=
  ∀ (d : Point) (k : Nat) (a24 : Pair), 0 < k → k < Config.p →
    bitlen k - 1 ≤ 60 ∧
    (∀ n, ((LadderRegs.step k a24)^[n] (LadderRegs.start d k a24)).todo = bitlen k - 1 - n) ∧
    ((LadderRegs.step k a24)^[bitlen k - 1] (LadderRegs.start d k a24)).r = ladder d k a24

/-! ### Datapath -/

/-- 10_state R34, 41_field R121: the operand check is true exactly on limb pairs below p; on limb pairs `validate` is val < p
and the test by words, and p itself is never valid. -/
def Obligations.OperandCheckIsBelowP : Prop :=
  (∀ e : Pair, validFE e = true ↔ Canonical e) ∧
  (∀ e : Pair, validate e = true ↔ rawCompare e Config.pfe = .less) ∧
  (∀ e : Pair, e.hi.toNat < 2147483648 → e.lo.toNat < 2147483648 →
    (validate e = true ↔ val e < Config.p) ∧
    (validate e = true ↔ e.hi.toNat < 2 ^ 30 - 1 ∨ (e.hi.toNat = 2 ^ 30 - 1 ∧ e.lo.toNat < 2 ^ 31 - 1))) ∧
  val Config.pfe = Config.p ∧ validate Config.pfe = false

/-- 41_field R120: `rawCompare` is lexicographic on (hi, lo), and numeric where both lo words are limbs. -/
def Obligations.RawCompareIsLexicographic : Prop :=
  ∀ x y : Pair,
    (rawCompare x y = .less ↔ x.hi.toNat < y.hi.toNat ∨ (x.hi = y.hi ∧ x.lo.toNat < y.lo.toNat)) ∧
    (rawCompare x y = .greater ↔ y.hi.toNat < x.hi.toNat ∨ (x.hi = y.hi ∧ y.lo.toNat < x.lo.toNat)) ∧
    (rawCompare x y = .equal ↔ x = y) ∧
    (x.lo.toNat < 2147483648 → y.lo.toNat < 2147483648 →
      (rawCompare x y = .less ↔ val x < val y) ∧ (rawCompare x y = .equal ↔ val x = val y))

/-- 40_limb R100 to R103, R109: the limb primitives and their laws. -/
def Obligations.LimbPrimitivesAreExact : Prop :=
  ∀ a b : Nat, a < 2 ^ 31 → b < 2 ^ 31 →
    addLimb a b = (a + b) % 2 ^ 31 ∧
    (addLimbWithCarry a b).1 = (a + b) % 2 ^ 31 ∧ (addLimbWithCarry a b).2 = (a + b) / 2 ^ 31 ∧
    a + b = (addLimbWithCarry a b).2 * 2 ^ 31 + (addLimbWithCarry a b).1 ∧
    ((addLimbWithCarry a b).2 = 0 ∨ (addLimbWithCarry a b).2 = 1) ∧
    ((addLimbWithCarry a b).2 = 1 ↔ 2 ^ 31 ≤ a + b) ∧
    (subLimb a b : Int) = ((a : Int) - b) % 2 ^ 31 ∧
    (a < b → (subLimb a b : Int) = (a : Int) - b + 2 ^ 31) ∧
    ((subLimbWithBorrow a b).1 : Int) = ((a : Int) - b) % 2 ^ 31 ∧
    (subLimbWithBorrow a b).2 = (if a < b then 1 else 0) ∧
    (a : Int) - b = (subLimbWithBorrow a b).1 - (subLimbWithBorrow a b).2 * 2 ^ 31 ∧
    addLimb a b < 2 ^ 31 ∧ subLimb a b < 2 ^ 31 ∧ addLimb (subLimb a b) b = a ∧
    addLimb a b = (addLimbWithCarry a b).1 ∧ subLimb a b = (subLimbWithBorrow a b).1 ∧
    addLimbWithCarry a b = addLimbWithCarry b a

/-- 41_field R122: on limb pairs whose values sum to less than 2p, `addCore` is the sum modulo p, and the result is a valid
field element. -/
def Obligations.AddCoreIsModularSum : Prop :=
  ∀ x y : Pair, x.hi.toNat < 2 ^ 31 → x.lo.toNat < 2 ^ 31 → y.hi.toNat < 2 ^ 31 → y.lo.toNat < 2 ^ 31 →
    val x + val y < 2 * Config.p →
    addCore x y = fe ((val x + val y) % Config.p) ∧ Canonical (addCore x y)

/-- 41_field R123: `negCore` of a valid element is the raw pair of value p − b, in [1, p]; of 0 it is p itself; the borrow is
always 0. -/
def Obligations.NegCoreIsPMinus : Prop :=
  ∀ b : Pair, Canonical b →
    val (negCore b) = Config.p - val b ∧ 1 ≤ val (negCore b) ∧ val (negCore b) ≤ Config.p ∧
    (negCore b).hi.toNat < 2 ^ 31 ∧ (negCore b).lo.toNat < 2 ^ 31 ∧
    (val b = 0 → negCore b = Config.pfe) ∧
    (subLimbWithBorrow Config.pfe.lo.toNat b.lo.toNat).2 = 0

/-- 41_field R124, R125, R126: Karatsuba's partial products give the full product, the folded value is congruent to it, and
`mulCore` is the product modulo p. -/
def Obligations.KaratsubaMultiplierIsModularProduct : Prop :=
  ∀ a b : Pair, Canonical a → Canonical b →
    mulM a b = a.hi.toNat * b.lo.toNat + a.lo.toNat * b.hi.toNat ∧
    val a * val b = 2 ^ 62 * mulH a b + 2 ^ 31 * mulM a b + mulL a b ∧
    mulT a b % Config.p = val a * val b % Config.p ∧
    mulCore a b = fe (mulT a b % Config.p) ∧ mulCore a b = fe (val a * val b % Config.p) ∧ Canonical (mulCore a b)

/-- 41_field R129: the widths of the datapath on valid operands. -/
def Obligations.DatapathWidths : Prop :=
  ∀ a b : Pair, Canonical a → Canonical b →
    a.lo.toNat + b.lo.toNat ≤ 2 ^ 32 - 2 ∧ val a + val b < 2 * Config.p ∧
    mulH a b ≤ (2 ^ 30 - 1) ^ 2 ∧ mulH a b < 2 ^ 60 ∧ mulL a b ≤ (2 ^ 31 - 1) ^ 2 ∧ mulL a b < 2 ^ 62 ∧
    a.hi.toNat + a.lo.toNat ≤ 3 * 2 ^ 30 - 2 ∧ a.hi.toNat + a.lo.toNat < 2 ^ 32 ∧
    mulS a b ≤ (3 * 2 ^ 30 - 2) ^ 2 ∧ mulS a b < 2 ^ 64 ∧
    mulM a b ≤ 2 * (2 ^ 30 - 1) * (2 ^ 31 - 1) ∧ mulM a b < 2 ^ 62 ∧ mulM a b / 2 ^ 31 < 2 ^ 31 ∧
    mulT a b < 2 ^ 63 + 2 ^ 61 + 2 ^ 32 ∧ mulT a b < 2 ^ 64 ∧ val a * val b < 2 ^ 122

/-- 41_field R137: the field laws, on the functions FADD, FSUB, FMUL, FFROMINT and FTOINT compute. -/
def Obligations.FieldLaws : Prop :=
  ∀ a b c : Pair, Canonical a → Canonical b → Canonical c →
    subCore (addCore a b) b = a ∧
    mulCore a b = mulCore b a ∧ addCore a b = addCore b a ∧
    addCore a (fe 0) = a ∧ mulCore a (fe 1) = a ∧ mulCore a (fe 0) = fe 0 ∧
    addCore a (subCore (fe 0) a) = fe 0 ∧
    addCore (addCore a b) c = addCore a (addCore b c) ∧ mulCore (mulCore a b) c = mulCore a (mulCore b c) ∧
    Canonical (addCore a b) ∧ Canonical (subCore a b) ∧ Canonical (mulCore a b) ∧
    (∀ n : Nat, n < 2 ^ 64 → Canonical (fromIntegerCore n) ∧ toIntegerCore (fromIntegerCore n) = n % Config.p)

/-- 42_point R160, R163: `doubleCP` computes the doubling formula in GF(p) exactly, with valid outputs; infinity stays infinity,
the point x = 0 doubles to (1, 0), and (0, 0) stays. -/
def Obligations.DoublingFormulaInField : Prop :=
  (∀ (p : Point) (a24 : Pair), CanonicalPoint p → Canonical a24 →
    let x := residue p.x
    let z := residue p.z
    let aa := (x + z) ^ 2
    let bb := (x - z) ^ 2
    CanonicalPoint (doubleCP p a24) ∧ residue (doubleCP p a24).x = aa * bb ∧
    residue (doubleCP p a24).z = (aa - bb) * (bb + residue a24 * (aa - bb))) ∧
  (∀ x a24 : Pair, Canonical x → Canonical a24 →
    doubleCP ⟨x, fe 0⟩ a24 = ⟨fe (val x ^ 4 % Config.p), fe 0⟩) ∧
  (∀ a24 : Pair, Canonical a24 →
    doubleCP ⟨fe 1, fe 0⟩ a24 = ⟨fe 1, fe 0⟩ ∧ doubleCP ⟨fe 0, fe 1⟩ a24 = ⟨fe 1, fe 0⟩ ∧
    doubleCP ⟨fe 0, fe 0⟩ a24 = ⟨fe 0, fe 0⟩)

/-- 42_point R161, R162: `addCP` computes the differential-addition formula in GF(p) exactly, with valid outputs, whatever the
difference operand; it is symmetric in its two summands. -/
def Obligations.DifferentialAdditionFormulaInField : Prop :=
  ∀ p1 p2 pd : Point, CanonicalPoint p1 → CanonicalPoint p2 → CanonicalPoint pd →
    let e := (residue p2.x - residue p2.z) * (residue p1.x + residue p1.z)
    let f := (residue p2.x + residue p2.z) * (residue p1.x - residue p1.z)
    CanonicalPoint (addCP p1 p2 pd) ∧ residue (addCP p1 p2 pd).x = residue pd.z * (e + f) ^ 2 ∧
    residue (addCP p1 p2 pd).z = residue pd.x * (e - f) ^ 2 ∧ addCP p1 p2 pd = addCP p2 p1 pd

/-- 43_ladder R181, R183: the zero scalar and the small scalars; the largest scalar has 61 bits. -/
def Obligations.LadderSmallScalars : Prop :=
  (∀ (d : Point) (a24 : Pair), ladder d 0 a24 = ⟨fe 1, fe 0⟩ ∧ ladder d 1 a24 = d ∧
    ladder d 2 a24 = doubleCP d a24 ∧ ladder d 3 a24 = addCP (doubleCP d a24) d d) ∧
  bitlen (Config.p - 1) = 61

/-! ### Limb commands -/

/-- 40_limb R105, R106: LADD and LADDC on limb operands; LADDC's hi word is the carry, so its value is the exact sum. -/
def Obligations.LaddLaddcComplete : Prop :=
  ∀ (s : State) (rd rs1 rs2 : FIdx), (s.limbOperand rs1).toNat < 2 ^ 31 → (s.limbOperand rs2).toNat < 2 ^ 31 →
    (∃ t, exec (.ladd rd rs1 rs2) s = .next t ∧
      s.CommitsF t rd (limbPair 0 (((s.limbOperand rs1).toNat + (s.limbOperand rs2).toNat) % 2 ^ 31))) ∧
    (∃ t, exec (.laddc rd rs1 rs2) s = .next t ∧
      s.CommitsF t rd (limbPair (((s.limbOperand rs1).toNat + (s.limbOperand rs2).toNat) / 2 ^ 31)
        (((s.limbOperand rs1).toNat + (s.limbOperand rs2).toNat) % 2 ^ 31)) ∧
      val (t.data.freg rd).pair = (s.limbOperand rs1).toNat + (s.limbOperand rs2).toNat)

/-- 40_limb R107, R108: LSUB and LSUBB on limb operands; LSUBB's hi word is the borrow. -/
def Obligations.LsubLsubbComplete : Prop :=
  ∀ (s : State) (rd rs1 rs2 : FIdx), (s.limbOperand rs1).toNat < 2 ^ 31 → (s.limbOperand rs2).toNat < 2 ^ 31 →
    (∃ t, exec (.lsub rd rs1 rs2) s = .next t ∧
      s.CommitsF t rd
        (limbPair 0 (((s.limbOperand rs1).toNat - (s.limbOperand rs2).toNat : Int) % 2 ^ 31).toNat)) ∧
    (∃ t, exec (.lsubb rd rs1 rs2) s = .next t ∧
      s.CommitsF t rd (limbPair (if (s.limbOperand rs1).toNat < (s.limbOperand rs2).toNat then 1 else 0)
        (((s.limbOperand rs1).toNat - (s.limbOperand rs2).toNat : Int) % 2 ^ 31).toNat) ∧
      (val (t.data.freg rd).pair : Int) = (s.limbOperand rs1).toNat - (s.limbOperand rs2).toNat +
        2 ^ 32 * (if (s.limbOperand rs1).toNat < (s.limbOperand rs2).toNat then 1 else 0))

/-- 60_exceptions R203: a limb command with bit 31 set in an operand's low word raises OUT_OF_RANGE_LIMB (code 3), and with
limb operands it does not. -/
def Obligations.LimbCommandsCheckBit31 : Prop :=
  CompletionCode.outOfRangeLimb.num = 3 ∧
  ∀ (s : State) (rd rs1 rs2 : FIdx) (i : Instr),
    i ∈ [.ladd rd rs1 rs2, .laddc rd rs1 rs2, .lsub rd rs1 rs2, .lsubb rd rs1 rs2] →
    ∃ t, exec i s = .next t ∧
      ((s.limbOperand rs1).getLsbD 31 = true ∨ (s.limbOperand rs2).getLsbD 31 = true →
        s.CommittedError t .outOfRangeLimb) ∧
      ((s.limbOperand rs1).getLsbD 31 = false → (s.limbOperand rs2).getLsbD 31 = false → t.status.code = .ok)

/-! ### Field commands -/

/-- 41_field R130: FCMP on valid operands orders them as numbers and writes RESULT only. -/
def Obligations.FcmpCompletes : Prop :=
  ∀ (s : State) (rs1 rs2 : FIdx), Canonical (s.feOperand rs1) → Canonical (s.feOperand rs2) →
    ∃ t, exec (.fcmp rs1 rs2) s = .next t ∧
      t.result = RegWord.put
        (if val (s.feOperand rs1) = val (s.feOperand rs2) then 0#32
         else if val (s.feOperand rs1) < val (s.feOperand rs2) then 1#32 else 2#32) ∧
      s.CommittedOk t false ∧ s.Frame t (fun _ => False) False True

/-- 41_field R131: FVAL answers whether its operand is valid, for every operand, and writes RESULT only. -/
def Obligations.FvalCompletes : Prop :=
  ∀ (s : State) (rs1 : FIdx), ∃ t, exec (.fval rs1) s = .next t ∧
    (Canonical (s.feOperand rs1) → t.result = RegWord.put 1#32) ∧
    (¬ Canonical (s.feOperand rs1) → t.result = RegWord.put 0#32) ∧
    s.CommittedOk t false ∧ s.Frame t (fun _ => False) False True

/-- 41_field R132: FADD on valid operands is the sum modulo p. -/
def Obligations.FaddCompletes : Prop :=
  ∀ (s : State) (rd rs1 rs2 : FIdx), Canonical (s.feOperand rs1) → Canonical (s.feOperand rs2) →
    ∃ t, exec (.fadd rd rs1 rs2) s = .next t ∧
      s.CommitsF t rd (fe ((val (s.feOperand rs1) + val (s.feOperand rs2)) % Config.p))

/-- 41_field R133: FSUB on valid operands is the difference modulo p, also when the subtrahend is 0. -/
def Obligations.FsubCompletes : Prop :=
  ∀ (s : State) (rd rs1 rs2 : FIdx), Canonical (s.feOperand rs1) → Canonical (s.feOperand rs2) →
    ∃ t, exec (.fsub rd rs1 rs2) s = .next t ∧
      s.CommitsF t rd (fe ((((val (s.feOperand rs1) : Int) - val (s.feOperand rs2)) % Config.p).toNat))

/-- 41_field R134: FMUL on valid operands is the product modulo p. -/
def Obligations.FmulCompletes : Prop :=
  ∀ (s : State) (rd rs1 rs2 : FIdx), Canonical (s.feOperand rs1) → Canonical (s.feOperand rs2) →
    ∃ t, exec (.fmul rd rs1 rs2) s = .next t ∧
      s.CommitsF t rd (fe (val (s.feOperand rs1) * val (s.feOperand rs2) % Config.p))

/-- 41_field R135: FFROMINT reduces the 64-bit IR modulo p, for every value of IR. -/
def Obligations.FfromintCompletes : Prop :=
  ∀ (s : State) (rd : FIdx), ∃ t, exec (.ffromint rd) s = .next t ∧
    s.CommitsF t rd
      (fe ((2 ^ 32 * s.operands.ir.hi.val.toNat + s.operands.ir.lo.val.toNat) % Config.p))

/-- 41_field R136: FTOINT on a valid operand writes its value into IR and nothing else. -/
def Obligations.FtointCompletes : Prop :=
  ∀ (s : State) (rs1 : FIdx), Canonical (s.feOperand rs1) →
    ∃ t, exec (.ftoint rs1) s = .next t ∧
      t.data.ir.hi = RegWord.put (BitVec.ofNat 32 (val (s.feOperand rs1) / 2 ^ 32)) ∧
      t.data.ir.lo = RegWord.put (BitVec.ofNat 32 (val (s.feOperand rs1) % 2 ^ 32)) ∧
      2 ^ 32 * t.data.ir.hi.val.toNat + t.data.ir.lo.val.toNat = val (s.feOperand rs1) ∧
      s.CommittedOk t false ∧ s.Frame t (fun _ => False) True False

/-- 60_exceptions R202: which operands each command checks: one that is not a valid field element raises
OUT_OF_RANGE_FIELD_ELEMENT (code 1) with nothing written, and valid operands do not; FVAL and FFROMINT never raise it, and
FVAL's RESULT is the validity. 42_point R163: PDBL raises it also where A24 was never written. That it always does, where 70 R238
leaves two outcomes, and that a half-written A24 counts as written, is the model's reading (log entry 25). -/
def Obligations.FieldOperandChecks : Prop :=
  CompletionCode.outOfRangeFieldElement.num = 1 ∧
  ∀ (s : State) (rd rs1 rs2 : FIdx) (pd p1 p2 p3 : PIdx),
    let raisesUnless := fun (i : Instr) (ok : Prop) =>
      ∃ t, exec i s = .next t ∧ (¬ ok → s.CommittedError t .outOfRangeFieldElement) ∧ (ok → t.status.code = .ok)
    raisesUnless (.fcmp rs1 rs2) (Canonical (s.feOperand rs1) ∧ Canonical (s.feOperand rs2)) ∧
    raisesUnless (.fadd rd rs1 rs2) (Canonical (s.feOperand rs1) ∧ Canonical (s.feOperand rs2)) ∧
    raisesUnless (.fsub rd rs1 rs2) (Canonical (s.feOperand rs1) ∧ Canonical (s.feOperand rs2)) ∧
    raisesUnless (.fmul rd rs1 rs2) (Canonical (s.feOperand rs1) ∧ Canonical (s.feOperand rs2)) ∧
    raisesUnless (.ftoint rs1) (Canonical (s.feOperand rs1)) ∧
    raisesUnless (.pdbl pd p1) (CanonicalPoint (s.pointOperand p1) ∧ Canonical s.a24Operand ∧ s.a24Written = true) ∧
    raisesUnless (.padd pd p1 p2 p3)
      (CanonicalPoint (s.pointOperand p1) ∧ CanonicalPoint (s.pointOperand p2) ∧ CanonicalPoint (s.pointOperand p3)) ∧
    raisesUnless (.pladder pd p1 rs2)
      (CanonicalPoint (s.pointOperand p1) ∧ Canonical (s.feOperand rs2) ∧ Canonical s.a24Operand) ∧
    raisesUnless (.fval rs1) True ∧ raisesUnless (.ffromint rd) True ∧
    (∃ t, exec (.fval rs1) s = .next t ∧ (Canonical (s.feOperand rs1) → t.result = RegWord.put 1#32) ∧
      (¬ Canonical (s.feOperand rs1) → t.result = RegWord.put 0#32))

/-! ### Point commands -/

/-- 42_point R163: PDBL on a valid point and a valid A24 that was written (log entry 25) writes the doubled point into
P[rd]. -/
def Obligations.PdblCompletes : Prop :=
  ∀ (s : State) (rd rs1 : PIdx), CanonicalPoint (s.pointOperand rs1) → Canonical s.a24Operand → s.a24Written = true →
    ∃ t, exec (.pdbl rd rs1) s = .next t ∧ s.CommitsP t rd (doubleCP (s.pointOperand rs1) s.a24Operand) false

/-- 42_point R163, 10_state R48: where neither word of A24 was written since reset, PDBL commits with
OUT_OF_RANGE_FIELD_ELEMENT and writes nothing but STATUS, whatever its operands hold; a reset leaves A24 so, and a host write of
either word, while idle, ends it (that a half-written A24 counts as written is read from 70 R236, log entry 25). -/
def Obligations.PdblNeedsWrittenA24 : Prop :=
  (∀ s : State, s.a24Written = false ↔ s.operands.a24.hi.written = false ∧ s.operands.a24.lo.written = false) ∧
  (∀ (s : State) (rd rs1 : PIdx), s.operands.a24.hi.written = false → s.operands.a24.lo.written = false →
    ∃ t, exec (.pdbl rd rs1) s = .next t ∧ s.CommittedError t .outOfRangeFieldElement) ∧
  State.reset.a24Written = false ∧ (∀ (s : State) (p : PortIn), p.rst = true → (s.portCycle p).a24Written = false) ∧
  (∀ (s : State) (addr : BitVec 8) (v : Word) (h : Half), s.busy = false → windowReg addr = .data (.a24 h) →
    (s.hostWrite addr v).a24Written = true)

/-- 42_point R164: PADD on valid points writes the formula's value into P[rd], whatever the difference operand; A24 is not
read. -/
def Obligations.PaddCompletes : Prop :=
  ∀ (s : State) (rd rs1 rs2 rs3 : PIdx), CanonicalPoint (s.pointOperand rs1) → CanonicalPoint (s.pointOperand rs2) →
    CanonicalPoint (s.pointOperand rs3) →
    ∃ t, exec (.padd rd rs1 rs2 rs3) s = .next t ∧
      s.CommitsP t rd (addCP (s.pointOperand rs1) (s.pointOperand rs2) (s.pointOperand rs3)) false

/-- 43_ladder R180, R184: PLADDER on valid operands writes the ladder's point into P[rd], wherever its hidden progress stands;
DEGEN is 1 exactly when the scalar is 0. The running command, if there is one, is this PLADDER, or has no working registers. -/
def Obligations.PladderCompletes : Prop :=
  ∀ (s : State) (rd rs1 : PIdx) (rs2 : FIdx), s.Inv →
    (∀ p, s.pending = some p → p.ladder = none ∨ decode p.word = some (.pladder rd rs1 rs2)) →
    CanonicalPoint (s.pointOperand rs1) → Canonical (s.feOperand rs2) → Canonical s.a24Operand →
    ∃ t, exec (.pladder rd rs1 rs2) s = .next t ∧
      s.CommitsP t rd (ladder (s.pointOperand rs1) (val (s.feOperand rs2)) s.a24Operand)
        (val (s.feOperand rs2) == 0)

/-- 60_exceptions R205: a PLADDER with scalar 0 is no error: CODE = OK, DEGEN = 1, P[rd] = (1, 0), ERR not set. -/
def Obligations.ZeroScalarIsNoError : Prop :=
  ∀ (s : State) (rd rs1 : PIdx) (rs2 : FIdx), CanonicalPoint (s.pointOperand rs1) → Canonical (s.feOperand rs2) →
    Canonical s.a24Operand → val (s.feOperand rs2) = 0 →
    ∃ t, exec (.pladder rd rs1 rs2) s = .next t ∧ s.CommitsP t rd ⟨⟨0#32, 1#32⟩, ⟨0#32, 0#32⟩⟩ true

/-! ### Every command -/

/-- 10_state R41: what every commit does to STATUS and the hidden state. -/
def Obligations.CommitUpdatesStatus : Prop :=
  ∀ (i : Instr) (s t : State), exec i s = .next t →
    t.busy = false ∧ t.pending = none ∧ t.status.err = (s.status.err || !(t.status.code == .ok)) ∧
    t.status.ovr = s.status.ovr ∧
    (t.status.degen = true ↔
      ∃ rd rs1 rs2, i = .pladder rd rs1 rs2 ∧ t.status.code = .ok ∧ val (s.feOperand rs2) = 0)

/-- 60_exceptions R201: a command whose code is not OK commits with BUSY = 0, DEGEN = 0 and ERR = 1, and writes no register:
every byte of the window outside STATUS keeps its value. -/
def Obligations.ErrorWritesOnlyStatus : Prop :=
  ∀ (i : Instr) (s t : State), exec i s = .next t → t.status.code ≠ .ok →
    s.CommittedError t t.status.code ∧
    ∀ addr, windowReg addr ≠ .status → t.windowByte addr = s.windowByte addr

/-- 30_encoding R83, 10_state R38, R42: every command changes no byte of the window outside its destination registers and
STATUS. -/
def Obligations.CommandsChangeOnlyDestinations : Prop :=
  ∀ (i : Instr) (s t : State) (addr : BitVec 8), exec i s = .next t → windowReg addr ∉ destinations i →
    windowReg addr ≠ .status → t.windowByte addr = s.windowByte addr

/-- 10_state R33: the engine writes field registers at a commit only, and every pair it writes is a valid field element. -/
def Obligations.EngineWritesValidElements : Prop :=
  ∀ (s t : State) (i : FIdx), s.Inv → step s = .next t → (∀ p, ¬ s.hostNext p) →
    t.data.freg i = s.data.freg i ∨
      (s.commitNext ∧ t.status.code = .ok ∧ Canonical (t.data.freg i).pair ∧ (t.data.freg i).hi.written = true ∧
        (t.data.freg i).lo.written = true)

/-- 10_state R48: where the host has written every operand word of a command, what it commits does not depend on the value of
any unwritten word. What such a word holds is the model's choice (log entries 1 to 3). -/
def Obligations.UnwrittenWordsDoNotLeak : Prop :=
  ∀ (i : Instr) (s t : State), s.Agree t → s.operandsWritten i →
    ∃ s' t', exec i s = .next s' ∧ exec i t = .next t' ∧ s'.Agree t'

/-! ### Host accesses -/

/-- 20_memory R63, R65, R66: the register map; an offset reaches the word that contains it; bytes are numbered little-endian. -/
def Obligations.WindowMap : Prop :=
  (∀ i : FIdx, windowReg (BitVec.ofNat 8 (8 * i.val)) = .data (.f i .lo) ∧
    windowReg (BitVec.ofNat 8 (8 * i.val + 4)) = .data (.f i .hi)) ∧
  windowReg 0x80#8 = .data (.ir .lo) ∧ windowReg 0x84#8 = .data (.ir .hi) ∧
  windowReg 0x88#8 = .data (.a24 .lo) ∧ windowReg 0x8C#8 = .data (.a24 .hi) ∧
  windowReg 0x90#8 = .result ∧ windowReg 0x94#8 = .reserved ∧ windowReg 0x98#8 = .cmd ∧ windowReg 0x9C#8 = .status ∧
  (∀ k : Nat, 0xA0 ≤ k → k ≤ 0xFC → windowReg (BitVec.ofNat 8 k) = .reserved) ∧
  (∀ addr : BitVec 8, windowReg addr = windowReg (addr &&& 0xFC#8)) ∧
  (∀ (s : State) (addr : BitVec 8) (j : Nat), j < 8 →
    (s.windowByte addr).getLsbD j = (s.hostRead addr).getLsbD (8 * (addr.toNat % 4) + j))

/-- 20_memory R68: reserved offsets read 0, and writes to them change nothing. -/
def Obligations.ReservedOffsets : Prop :=
  ∀ (s : State) (addr : BitVec 8) (v : Word), (addr.toNat / 4 = 0x94 / 4 ∨ 0xA0 ≤ addr.toNat) →
    s.hostRead addr = 0#32 ∧ s.hostWrite addr v = s

/-- 10_state R40, 60_exceptions R200: the fields of STATUS as the host reads it; OK is code 0 and no code is above 3. -/
def Obligations.StatusLayout : Prop :=
  ∀ s : State,
    let w := s.hostRead 0x9C#8
    w.getLsbD 0 = s.busy ∧ w.getLsbD 1 = s.status.degen ∧ (w.extractLsb' 2 2).toNat = 0 ∧
    (w.extractLsb' 4 4).toNat = s.status.code.num ∧ w.getLsbD 8 = s.status.err ∧ w.getLsbD 9 = s.status.ovr ∧
    (w.extractLsb' 10 22).toNat = 0 ∧ s.status.code.num ≤ 3 ∧ CompletionCode.ok.num = 0

/-- 10_state R32, 20_memory R61, R69, R72, R73: a read, busy or not, returns the register's current value and changes nothing
but the port; while idle, a write to a word of a data register is stored whole, every other word keeps its value, and nothing
else changes. -/
def Obligations.ReadsAndIdleWrites : Prop :=
  (∀ (s : State) (p : PortIn), p.rst = false → p.req = true → p.we = false →
    s.portCycle p = { s with rdata := some (s.hostRead p.addr) }) ∧
  (∀ (s : State) (addr : BitVec 8) (v : Word) (d : DataWord), s.busy = false → windowReg addr = .data d →
    (s.hostWrite addr v).hostRead addr = v ∧
    (∀ other, windowReg other ≠ .data d → (s.hostWrite addr v).hostRead other = s.hostRead other) ∧
    ((s.hostWrite addr v).data.word d).written = true ∧
    (∀ d', d' ≠ d → (s.hostWrite addr v).data.word d' = s.data.word d') ∧
    { s.hostWrite addr v with data := s.data } = s)

/-- 20_memory R67: while busy, a write to a data register or CMD is dropped and sets OVR and nothing else; a write to STATUS is
not dropped; RESULT and reserved offsets ignore it without OVR. -/
def Obligations.BusyWritesAreDropped : Prop :=
  ∀ (s : State) (addr : BitVec 8) (v : Word), s.busy = true →
    ((windowReg addr = .cmd ∨ ∃ d, windowReg addr = .data d) →
      s.hostWrite addr v = { s with status := { s.status with ovr := true } }) ∧
    (windowReg addr = .status → s.hostWrite addr v = { s with status := s.status.atHostWrite v }) ∧
    (windowReg addr = .result ∨ windowReg addr = .reserved → s.hostWrite addr v = s)

/-- 20_memory R70: RESULT is read-only; a STATUS write clears OVR and ERR where its bits are 1 and leaves every other bit. -/
def Obligations.ReadOnlyAndWriteOneToClear : Prop :=
  ∀ (s : State) (v : Word),
    s.hostWrite 0x90#8 v = s ∧
    (∀ n, n < 32 → ((s.hostWrite 0x9C#8 v).hostRead 0x9C#8).getLsbD n =
      ((s.hostRead 0x9C#8).getLsbD n && !((n == 8 || n == 9) && v.getLsbD n))) ∧
    { s.hostWrite 0x9C#8 v with status := s.status } = s ∧
    ((s.hostRead 0x9C#8).extractLsb' 2 2).toNat = 0 ∧ ((s.hostRead 0x9C#8).extractLsb' 10 22).toNat = 0

/-- 10_state R39: a CMD write while idle issues: the word is latched and reads back, BUSY becomes 1 and the operands are taken;
while busy it is dropped and sets OVR. -/
def Obligations.CmdWriteIssues : Prop :=
  ∀ (s : State) (w : Word),
    (s.busy = false →
      (s.hostWrite 0x98#8 w).hostRead 0x98#8 = w ∧ (s.hostWrite 0x98#8 w).busy = true ∧
      (s.hostWrite 0x98#8 w).pending.map (·.word) = some w ∧ (s.hostWrite 0x98#8 w).operands = s.data ∧
      { s.hostWrite 0x98#8 w with cmd := s.cmd, pending := s.pending } = s) ∧
    (s.busy = true → s.hostWrite 0x98#8 w = { s with status := { s.status with ovr := true } })

/-- 10_state R38, R39, R45, 70 R230: CMD changes only at an accepted CMD write, whose word it then holds, or at a reset; BUSY
goes to 1 only at an accepted CMD write, and to 0 only at a commit or a reset; the engine never writes A24. -/
def Obligations.CmdBusyA24ChangeOnlyBy : Prop :=
  ∀ s t : State, step s = .next t →
    (t.cmd ≠ s.cmd → ∃ p, s.hostNext p ∧
      (p.rst = true ∨ (p.writes .cmd ∧ s.busy = false ∧ t.cmd = p.wdata))) ∧
    (s.busy = false → t.busy = true → ∃ p, s.hostNext p ∧ p.writes .cmd ∧ t.cmd = p.wdata) ∧
    (s.busy = true → t.busy = false → s.commitNext ∨ ∃ p, s.hostNext p ∧ p.rst = true) ∧
    (t.data.a24 ≠ s.data.a24 → ∃ p, s.hostNext p ∧
      (p.rst = true ∨ (s.busy = false ∧ ∃ h, p.writes (.data (.a24 h)))))

/-- 10_state R41, 60_exceptions R211: only a reset or a host write of 1 clears ERR or OVR. -/
def Obligations.StickyBitsClearedOnlyBy : Prop :=
  ∀ s t : State, step s = .next t →
    (s.status.err = true → t.status.err = false → ∃ p, s.hostNext p ∧
      (p.rst = true ∨ (p.writes .status ∧ p.wdata.getLsbD 8 = true))) ∧
    (s.status.ovr = true → t.status.ovr = false → ∃ p, s.hostNext p ∧
      (p.rst = true ∨ (p.writes .status ∧ p.wdata.getLsbD 9 = true)))

/-- 70 R230, R231, 10_state R47: a cycle with rst = 1. STATUS, BUSY and CMD are 0, every data register is marked unwritten, and
an access presented in it has no effect. These do not depend on the earlier state. Of the values of the data registers nothing is
stated but that an access presented in the cycle does not change them. -/
def Obligations.ResetCycle : Prop :=
  ∀ (s : State) (p : PortIn), p.rst = true →
    (s.portCycle p).hostRead 0x9C#8 = 0#32 ∧ (s.portCycle p).hostRead 0x98#8 = 0#32 ∧
    (s.portCycle p).pending = none ∧ (∀ d, ((s.portCycle p).data.word d).written = false) ∧
    (s.portCycle p).result.written = false ∧
    (∀ q : PortIn, q.rst = true → { s.portCycle q with rdata := none } = { s.portCycle p with rdata := none }) ∧
    (∀ s' : State, (s'.portCycle p).status = (s.portCycle p).status ∧ (s'.portCycle p).cmd = (s.portCycle p).cmd ∧
      (s'.portCycle p).pending = (s.portCycle p).pending ∧
      (∀ d, ((s'.portCycle p).data.word d).written = ((s.portCycle p).data.word d).written) ∧
      (s'.portCycle p).result.written = (s.portCycle p).result.written)

/-! ### Pseudo-commands and the host's protocol -/

/-- 30_encoding R90, 41_field R133, R134: FSQR squares; FNEG with 0 in Fz gives the additive inverse; FMOV with 1 in Fo copies. -/
def Obligations.PseudoCommands : Prop :=
  ∀ (s : State) (fd fa fz fo : FIdx), Canonical (s.feOperand fa) →
    pseudoFsqr fd fa = .fmul fd fa fa ∧ pseudoFneg fd fa fz = .fsub fd fz fa ∧ pseudoFmov fd fa fo = .fmul fd fa fo ∧
    (∃ t, exec (pseudoFsqr fd fa) s = .next t ∧ s.CommitsF t fd (fe (val (s.feOperand fa) ^ 2 % Config.p))) ∧
    (s.feOperand fz = ⟨0#32, 0#32⟩ → ∃ t, exec (pseudoFneg fd fa fz) s = .next t ∧
      s.CommitsF t fd (fe ((Config.p - val (s.feOperand fa)) % Config.p))) ∧
    (s.feOperand fo = ⟨0#32, 1#32⟩ → ∃ t, exec (pseudoFmov fd fa fo) s = .next t ∧ s.CommitsF t fd (s.feOperand fa))

/-- 30_encoding R91: LDF, LDIR and LDA24 on an idle machine load a whole register and change nothing else. -/
def Obligations.LoadSequencesLoad : Prop :=
  ∀ (s : State) (rest : List Event), s.busy = false →
    (∀ (i : FIdx) (v : Nat), v < 2 ^ 62 → s.agenda = ldf i v ++ rest →
      Host.Core.run core 2 s = .next { s with data := s.data.setF i (Reg.put (fe v)), agenda := rest, rdata := none }) ∧
    (∀ v : Nat, v < 2 ^ 64 → s.agenda = ldir v ++ rest →
      ∃ t, Host.Core.run core 2 s = .next t ∧ 2 ^ 32 * t.data.ir.hi.val.toNat + t.data.ir.lo.val.toNat = v ∧
        t = { s with data := { s.data with ir := t.data.ir }, agenda := rest, rdata := none }) ∧
    (∀ v : Nat, v < 2 ^ 62 → s.agenda = lda24 v ++ rest →
      Host.Core.run core 2 s =
        .next { s with data := { s.data with a24 := Reg.put (fe v) }, agenda := rest, rdata := none })

/-- 30_encoding R91, 70 R234, R235: ISSUE then WAIT on an idle machine, with any number of polls before the commit, runs
exactly the issued command, and the last read shows its STATUS with BUSY = 0. -/
def Obligations.IssueWaitRunsCommand : Prop :=
  ∀ (s : State) (w : Word) (i : Instr) (polls : Nat) (rest : List Event), s.busy = false → decode w = some i →
    s.agenda = issueWord w ++ waitDone polls ++ rest →
    ∃ u, exec i (s.issue w) = .next u ∧ u.busy = false ∧ u.statusWord.getLsbD 0 = false ∧
      Host.Core.run core (polls + 3) s = .next { u with agenda := rest, rdata := some u.statusWord }
end

