-- ==== Sys2Proof/Laws/State.lean ====
section
/-! SUPPORT. One lemma per field per update of the state, true by `rfl`, so that no later proof unfolds a record update. -/

namespace Sys2Proof.Laws

open Sys2Proof.Machine

/-! ### `State.writeF` -/

@[simp] theorem writeF_data (s : State) (i : Fin 16) (p : Pair) : (s.writeF i p).data = s.data.setF i (Reg.put p) := rfl
@[simp] theorem writeF_result (s : State) (i : Fin 16) (p : Pair) : (s.writeF i p).result = s.result := rfl
@[simp] theorem writeF_cmd (s : State) (i : Fin 16) (p : Pair) : (s.writeF i p).cmd = s.cmd := rfl
@[simp] theorem writeF_status (s : State) (i : Fin 16) (p : Pair) : (s.writeF i p).status = s.status := rfl
@[simp] theorem writeF_pending (s : State) (i : Fin 16) (p : Pair) : (s.writeF i p).pending = s.pending := rfl
@[simp] theorem writeF_rdata (s : State) (i : Fin 16) (p : Pair) : (s.writeF i p).rdata = s.rdata := rfl
@[simp] theorem writeF_agenda (s : State) (i : Fin 16) (p : Pair) : (s.writeF i p).agenda = s.agenda := rfl
@[simp] theorem writeF_freeIdx (s : State) (i : Fin 16) (p : Pair) : (s.writeF i p).freeIdx = s.freeIdx := rfl

/-! ### `State.writePoint` -/

@[simp] theorem writePoint_data (s : State) (k : Fin 8) (p : Point) : (s.writePoint k p).data = (s.data.setF (pointX k) (Reg.put p.x)).setF (pointZ k) (Reg.put p.z) := rfl
@[simp] theorem writePoint_result (s : State) (k : Fin 8) (p : Point) : (s.writePoint k p).result = s.result := rfl
@[simp] theorem writePoint_cmd (s : State) (k : Fin 8) (p : Point) : (s.writePoint k p).cmd = s.cmd := rfl
@[simp] theorem writePoint_status (s : State) (k : Fin 8) (p : Point) : (s.writePoint k p).status = s.status := rfl
@[simp] theorem writePoint_pending (s : State) (k : Fin 8) (p : Point) : (s.writePoint k p).pending = s.pending := rfl
@[simp] theorem writePoint_rdata (s : State) (k : Fin 8) (p : Point) : (s.writePoint k p).rdata = s.rdata := rfl
@[simp] theorem writePoint_agenda (s : State) (k : Fin 8) (p : Point) : (s.writePoint k p).agenda = s.agenda := rfl
@[simp] theorem writePoint_freeIdx (s : State) (k : Fin 8) (p : Point) : (s.writePoint k p).freeIdx = s.freeIdx := rfl

/-! ### `State.writeIR` -/

@[simp] theorem writeIR_data (s : State) (n : Nat) : (s.writeIR n).data = { s.data with ir := Reg.put (int64Pair n) } := rfl
@[simp] theorem writeIR_result (s : State) (n : Nat) : (s.writeIR n).result = s.result := rfl
@[simp] theorem writeIR_cmd (s : State) (n : Nat) : (s.writeIR n).cmd = s.cmd := rfl
@[simp] theorem writeIR_status (s : State) (n : Nat) : (s.writeIR n).status = s.status := rfl
@[simp] theorem writeIR_pending (s : State) (n : Nat) : (s.writeIR n).pending = s.pending := rfl
@[simp] theorem writeIR_rdata (s : State) (n : Nat) : (s.writeIR n).rdata = s.rdata := rfl
@[simp] theorem writeIR_agenda (s : State) (n : Nat) : (s.writeIR n).agenda = s.agenda := rfl
@[simp] theorem writeIR_freeIdx (s : State) (n : Nat) : (s.writeIR n).freeIdx = s.freeIdx := rfl

/-! ### `State.writeResult` -/

@[simp] theorem writeResult_data (s : State) (w : Word) : (s.writeResult w).data = s.data := rfl
@[simp] theorem writeResult_result (s : State) (w : Word) : (s.writeResult w).result = RegWord.put w := rfl
@[simp] theorem writeResult_cmd (s : State) (w : Word) : (s.writeResult w).cmd = s.cmd := rfl
@[simp] theorem writeResult_status (s : State) (w : Word) : (s.writeResult w).status = s.status := rfl
@[simp] theorem writeResult_pending (s : State) (w : Word) : (s.writeResult w).pending = s.pending := rfl
@[simp] theorem writeResult_rdata (s : State) (w : Word) : (s.writeResult w).rdata = s.rdata := rfl
@[simp] theorem writeResult_agenda (s : State) (w : Word) : (s.writeResult w).agenda = s.agenda := rfl
@[simp] theorem writeResult_freeIdx (s : State) (w : Word) : (s.writeResult w).freeIdx = s.freeIdx := rfl

/-! ### `State.commit` -/

@[simp] theorem commit_data (s : State) (c : CompletionCode) (z : Bool) : (s.commit c z).data = s.data := rfl
@[simp] theorem commit_result (s : State) (c : CompletionCode) (z : Bool) : (s.commit c z).result = s.result := rfl
@[simp] theorem commit_cmd (s : State) (c : CompletionCode) (z : Bool) : (s.commit c z).cmd = s.cmd := rfl
@[simp] theorem commit_status (s : State) (c : CompletionCode) (z : Bool) : (s.commit c z).status = s.status.atCommit c z := rfl
@[simp] theorem commit_pending (s : State) (c : CompletionCode) (z : Bool) : (s.commit c z).pending = none := rfl
@[simp] theorem commit_rdata (s : State) (c : CompletionCode) (z : Bool) : (s.commit c z).rdata = s.rdata := rfl
@[simp] theorem commit_agenda (s : State) (c : CompletionCode) (z : Bool) : (s.commit c z).agenda = s.agenda := rfl
@[simp] theorem commit_freeIdx (s : State) (c : CompletionCode) (z : Bool) : (s.commit c z).freeIdx = s.freeIdx := rfl

/-! ### `State.drop` -/

@[simp] theorem drop_data (s : State) : (s.drop).data = s.data := rfl
@[simp] theorem drop_result (s : State) : (s.drop).result = s.result := rfl
@[simp] theorem drop_cmd (s : State) : (s.drop).cmd = s.cmd := rfl
@[simp] theorem drop_status (s : State) : (s.drop).status = s.status.overrun := rfl
@[simp] theorem drop_pending (s : State) : (s.drop).pending = s.pending := rfl
@[simp] theorem drop_rdata (s : State) : (s.drop).rdata = s.rdata := rfl
@[simp] theorem drop_agenda (s : State) : (s.drop).agenda = s.agenda := rfl
@[simp] theorem drop_freeIdx (s : State) : (s.drop).freeIdx = s.freeIdx := rfl

/-! ### `State.issue` -/

@[simp] theorem issue_data (s : State) (w : Word) : (s.issue w).data = s.data := rfl
@[simp] theorem issue_result (s : State) (w : Word) : (s.issue w).result = s.result := rfl
@[simp] theorem issue_cmd (s : State) (w : Word) : (s.issue w).cmd = w := rfl
@[simp] theorem issue_status (s : State) (w : Word) : (s.issue w).status = s.status := rfl
@[simp] theorem issue_pending (s : State) (w : Word) : (s.issue w).pending = some { word := w, snapshot := s.data, ladder := none } := rfl
@[simp] theorem issue_rdata (s : State) (w : Word) : (s.issue w).rdata = s.rdata := rfl
@[simp] theorem issue_agenda (s : State) (w : Word) : (s.issue w).agenda = s.agenda := rfl
@[simp] theorem issue_freeIdx (s : State) (w : Word) : (s.issue w).freeIdx = s.freeIdx := rfl

/-! ### `State.resetEdge` -/

@[simp] theorem resetEdge_data (s : State) (p : PortIn) : (s.resetEdge p).data = unspecifiedBank s.freeIdx := rfl
@[simp] theorem resetEdge_result (s : State) (p : PortIn) : (s.resetEdge p).result = ⟨Config.freeWord (s.freeIdx + 36), false⟩ := rfl
@[simp] theorem resetEdge_cmd (s : State) (p : PortIn) : (s.resetEdge p).cmd = 0#32 := rfl
@[simp] theorem resetEdge_status (s : State) (p : PortIn) : (s.resetEdge p).status = Status.cleared := rfl
@[simp] theorem resetEdge_pending (s : State) (p : PortIn) : (s.resetEdge p).pending = none := rfl
@[simp] theorem resetEdge_rdata (s : State) (p : PortIn) : (s.resetEdge p).rdata = (if p.req && !p.we then some (Config.freeWord (s.freeIdx + 37)) else none) := rfl
@[simp] theorem resetEdge_agenda (s : State) (p : PortIn) : (s.resetEdge p).agenda = s.agenda := rfl
@[simp] theorem resetEdge_freeIdx (s : State) (p : PortIn) : (s.resetEdge p).freeIdx = s.freeIdx + 38 := rfl

/-! ### `State.advance` -/

@[simp] theorem advance_data (s : State) : (s.advance).data = s.data := rfl
@[simp] theorem advance_result (s : State) : (s.advance).result = s.result := rfl
@[simp] theorem advance_cmd (s : State) : (s.advance).cmd = s.cmd := rfl
@[simp] theorem advance_status (s : State) : (s.advance).status = s.status := rfl
@[simp] theorem advance_pending (s : State) : (s.advance).pending = s.pending := rfl
@[simp] theorem advance_rdata (s : State) : (s.advance).rdata = none := rfl
@[simp] theorem advance_agenda (s : State) : (s.advance).agenda = s.agenda.tail := rfl
@[simp] theorem advance_freeIdx (s : State) : (s.advance).freeIdx = s.freeIdx := rfl

/-! ### `State.placeCommand` -/

@[simp] theorem placeCommand_data (s : State) (w : Word) : (s.placeCommand w).data = s.data := rfl
@[simp] theorem placeCommand_result (s : State) (w : Word) : (s.placeCommand w).result = s.result := rfl
@[simp] theorem placeCommand_cmd (s : State) (w : Word) : (s.placeCommand w).cmd = w := rfl
@[simp] theorem placeCommand_status (s : State) (w : Word) : (s.placeCommand w).status = s.status := rfl
@[simp] theorem placeCommand_pending (s : State) (w : Word) : (s.placeCommand w).pending = some { word := w, snapshot := s.data, ladder := none } := rfl
@[simp] theorem placeCommand_rdata (s : State) (w : Word) : (s.placeCommand w).rdata = s.rdata := rfl
@[simp] theorem placeCommand_agenda (s : State) (w : Word) : (s.placeCommand w).agenda = .commit :: s.agenda := rfl
@[simp] theorem placeCommand_freeIdx (s : State) (w : Word) : (s.placeCommand w).freeIdx = s.freeIdx := rfl

/-! ### STATUS -/

@[simp] theorem atCommit_degen (st : Status) (c : CompletionCode) (z : Bool) :
    (st.atCommit c z).degen = (z && c == .ok) := rfl
@[simp] theorem atCommit_code (st : Status) (c : CompletionCode) (z : Bool) : (st.atCommit c z).code = c := rfl
@[simp] theorem atCommit_err (st : Status) (c : CompletionCode) (z : Bool) :
    (st.atCommit c z).err = (st.err || !(c == .ok)) := rfl
@[simp] theorem atCommit_ovr (st : Status) (c : CompletionCode) (z : Bool) : (st.atCommit c z).ovr = st.ovr := rfl
@[simp] theorem atHostWrite_degen (st : Status) (v : Word) : (st.atHostWrite v).degen = st.degen := rfl
@[simp] theorem atHostWrite_code (st : Status) (v : Word) : (st.atHostWrite v).code = st.code := rfl
@[simp] theorem atHostWrite_err (st : Status) (v : Word) : (st.atHostWrite v).err = (st.err && !v.getLsbD 8) := rfl
@[simp] theorem atHostWrite_ovr (st : Status) (v : Word) : (st.atHostWrite v).ovr = (st.ovr && !v.getLsbD 9) := rfl
@[simp] theorem overrun_degen (st : Status) : st.overrun.degen = st.degen := rfl
@[simp] theorem overrun_code (st : Status) : st.overrun.code = st.code := rfl
@[simp] theorem overrun_err (st : Status) : st.overrun.err = st.err := rfl
@[simp] theorem overrun_ovr (st : Status) : st.overrun.ovr = true := rfl

/-! ### Registers -/

@[simp] theorem put_val (w : Word) : (RegWord.put w).val = w := rfl
@[simp] theorem put_written (w : Word) : (RegWord.put w).written = true := rfl
@[simp] theorem put_hi (p : Pair) : (Reg.put p).hi = RegWord.put p.hi := rfl
@[simp] theorem put_lo (p : Pair) : (Reg.put p).lo = RegWord.put p.lo := rfl
@[simp] theorem put_pair (p : Pair) : (Reg.put p).pair = p := rfl
@[simp] theorem setF_ir (b : Bank) (i : Fin 16) (r : Reg) : (b.setF i r).ir = b.ir := rfl
@[simp] theorem setF_a24 (b : Bank) (i : Fin 16) (r : Reg) : (b.setF i r).a24 = b.a24 := rfl

theorem setF_freg (b : Bank) (i j : Fin 16) (r : Reg) : (b.setF i r).freg j = if i = j then r else b.freg j := by
  simp only [Bank.setF, Bank.freg, Vector.getElem_set, Fin.ext_iff]

@[simp] theorem setF_freg_self (b : Bank) (i : Fin 16) (r : Reg) : (b.setF i r).freg i = r := by simp [setF_freg]

theorem setF_freg_other (b : Bank) {i j : Fin 16} (r : Reg) (h : j ≠ i) : (b.setF i r).freg j = b.freg j := by
  simp [setF_freg, Ne.symm h]

@[simp] theorem ir_update_freg (b : Bank) (r : Reg) (i : Fin 16) : ({ b with ir := r } : Bank).freg i = b.freg i := rfl
@[simp] theorem a24_update_freg (b : Bank) (r : Reg) (i : Fin 16) : ({ b with a24 := r } : Bank).freg i = b.freg i := rfl

theorem pointX_ne_pointZ (k l : Fin 8) : pointX k ≠ pointZ l := by
  simp only [pointX, pointZ, ne_eq, Fin.mk.injEq]
  omega

/-- `BUSY` after a commit is 0. -/
@[simp] theorem commit_busy (s : State) (c : CompletionCode) (z : Bool) : (s.commit c z).busy = false := rfl

/-- `BUSY` after an issue is 1. -/
@[simp] theorem issue_busy (s : State) (w : Word) : (s.issue w).busy = true := rfl

end Sys2Proof.Laws
end

