-- ==== Sys2Proof/Laws/Datapath.lean ====
section
/-! SUPPORT. The small lemmas of the datapath: limb pairs, values and the two tests, in plain arithmetic. -/

namespace Sys2Proof.Laws

open Sys2Proof.Machine

theorem p_eq : Config.p = 2305843009213693951 := rfl
theorem p_pos : 0 < Config.p := by decide
theorem limbBase_eq : Config.limbBase = 2147483648 := rfl
@[simp] theorem pfe_hi : Config.pfe.hi.toNat = 1073741823 := rfl
@[simp] theorem pfe_lo : Config.pfe.lo.toNat = 2147483647 := rfl

theorem val_eq (e : Pair) : val e = 2147483648 * e.hi.toNat + e.lo.toNat := rfl
theorem fe_eq (v : Nat) : fe v = limbPair (v / 2147483648) (v % 2147483648) := rfl

theorem limbPair_hi (h l : Nat) (hh : h < 4294967296) : (limbPair h l).hi.toNat = h := by
  simp only [limbPair, BitVec.toNat_ofNat]
  omega

theorem limbPair_lo (h l : Nat) (hl : l < 4294967296) : (limbPair h l).lo.toNat = l := by
  simp only [limbPair, BitVec.toNat_ofNat]
  omega

theorem val_limbPair (h l : Nat) (hh : h < 4294967296) (hl : l < 4294967296) :
    val (limbPair h l) = h * 2147483648 + l := by
  rw [val_eq, limbPair_hi _ _ hh, limbPair_lo _ _ hl, Nat.mul_comm]

@[simp] theorem limbPair_toNat (e : Pair) : limbPair e.hi.toNat e.lo.toNat = e := by
  cases e
  simp [limbPair]

theorem val_fe (v : Nat) (h : v < 2 ^ 62) : val (fe v) = v := by
  rw [fe_eq, val_limbPair] <;> omega

theorem fe_val (e : Pair) (h : e.lo.toNat < 2147483648) : fe (val e) = e := by
  have h1 : val e / 2147483648 = e.hi.toNat := by rw [val_eq]; omega
  have h2 : val e % 2147483648 = e.lo.toNat := by rw [val_eq]; omega
  rw [fe_eq, h1, h2, limbPair_toNat]

theorem isLimb_iff (w : Word) : isLimb w = true ↔ w.toNat < 2147483648 := by
  have := w.isLt
  simp only [isLimb, BitVec.getLsbD, Nat.testBit_eq_decide_div_mod_eq, Bool.not_eq_true', decide_eq_false_iff_not]
  omega

/-- `rawCompare` against p itself, by words (R121). -/
theorem rawCompare_pfe_less (x : Pair) :
    rawCompare x Config.pfe = .less ↔
      x.hi.toNat < 1073741823 ∨ (x.hi.toNat = 1073741823 ∧ x.lo.toNat < 2147483647) := by
  unfold rawCompare
  rw [pfe_hi, pfe_lo]
  repeat' split
  all_goals simp
  all_goals omega

theorem canonical_iff (e : Pair) :
    Canonical e ↔ e.hi.toNat < 2147483648 ∧ e.lo.toNat < 2147483648 ∧ val e < Config.p := Iff.rfl

theorem canonicalPoint_iff (p : Point) : CanonicalPoint p ↔ Canonical p.x ∧ Canonical p.z := Iff.rfl

theorem canonical_fe (v : Nat) (h : v < Config.p) : Canonical (fe v) := by
  rw [canonical_iff, val_fe v (by rw [p_eq] at h; omega), fe_eq]
  rw [p_eq] at h ⊢
  refine ⟨?_, ?_, h⟩
  · rw [limbPair_hi] <;> omega
  · rw [limbPair_lo] <;> omega

theorem ladderIter_false (d : Point) (a24 : Pair) (rs : Point × Point) :
    ladderIter d a24 false rs = (doubleCP rs.1 a24, addCP rs.2 rs.1 d) := rfl

theorem ladderIter_true (d : Point) (a24 : Pair) (rs : Point × Point) :
    ladderIter d a24 true rs = (addCP rs.2 rs.1 d, doubleCP rs.2 a24) := rfl

/-- One more iteration of the ladder's loop. -/
theorem ladderLoop_succ (d : Point) (k : Nat) (a24 : Pair) (n : Nat) (rs : Point × Point) :
    ladderLoop d k a24 (n + 1) rs = ladderLoop d k a24 n (ladderIter d a24 (k.testBit n) rs) := rfl

/-- A step of the working registers does not change where the ladder ends. -/
theorem ladder_finish_step (k : Nat) (a24 : Pair) (g : LadderRegs) :
    (g.step k a24).finish k a24 = g.finish k a24 := by
  rcases g with ⟨d, r, s, _ | n⟩ <;> rfl

end Sys2Proof.Laws
end

