-- ==== Sys2Proof/Laws/Ops.lean ====
section
/-! SUPPORT. What each shared operation can do, said once: the engine's writes with their commit, the error commit, the three
shapes of command, the host's accesses and the engine's commit. -/

namespace Sys2Proof.Laws

open Sys2Proof.Machine

/-! ### Register updates seen through the accessors -/

@[simp] theorem writeIR_freg (s : State) (n : Nat) (i : Fin 16) : (s.writeIR n).data.freg i = s.data.freg i := by
  simp

@[simp] theorem writeIR_a24 (s : State) (n : Nat) : (s.writeIR n).data.a24 = s.data.a24 := by simp

theorem writePoint_freg_x (s : State) (k : Fin 8) (p : Point) : (s.writePoint k p).data.freg (pointX k) = Reg.put p.x := by
  simp [setF_freg_other _ _ (pointX_ne_pointZ k k)]

theorem writePoint_freg_z (s : State) (k : Fin 8) (p : Point) : (s.writePoint k p).data.freg (pointZ k) = Reg.put p.z := by
  simp

theorem writePoint_freg_other (s : State) (k : Fin 8) (p : Point) {i : Fin 16} (hx : i ≠ pointX k) (hz : i ≠ pointZ k) :
    (s.writePoint k p).data.freg i = s.data.freg i := by
  simp [setF_freg_other _ _ hx, setF_freg_other _ _ hz]

/-! ### The mark of a whole register -/

@[simp] theorem everWritten_put (p : Pair) : (Reg.put p).everWritten = true := rfl

@[simp] theorem everWritten_setHalf (r : Reg) (h : Half) (w : Word) : (r.setHalf h w).everWritten = true := by
  cases h <;> simp [Reg.setHalf, Reg.everWritten, RegWord.put]

theorem everWritten_eq_false (r : Reg) : r.everWritten = false ↔ r.hi.written = false ∧ r.lo.written = false := by
  simp [Reg.everWritten]

/-! ### A write and its commit -/

theorem commitsF_writeF (s : State) (rd : Fin 16) (p : Pair) : s.CommitsF ((s.writeF rd p).commit .ok false) rd p := by
  refine ⟨by simp, ⟨by simp, by simp, by simp, by simp⟩, ?_⟩
  constructor <;> simp +contextual [setF_freg_other]

theorem commitsP_writePoint (s : State) (rd : Fin 8) (p : Point) (z : Bool) :
    s.CommitsP ((s.writePoint rd p).commit .ok z) rd p z := by
  refine ⟨?_, ?_, ⟨by simp, by simp, by simp, by simp⟩, ?_⟩
  · rw [commit_data, writePoint_freg_x]
  · rw [commit_data, writePoint_freg_z]
  · constructor
    case f =>
      intro i hi
      rw [commit_data, writePoint_freg_other _ _ _ (fun h => hi (.inl h)) (fun h => hi (.inr h))]
    all_goals simp

theorem frame_writeResult (s : State) (w : Word) :
    s.CommittedOk ((s.writeResult w).commit .ok false) false ∧
      s.Frame ((s.writeResult w).commit .ok false) (fun _ => False) False True := by
  refine ⟨⟨by simp, by simp, by simp, by simp⟩, ?_⟩
  constructor <;> simp

theorem frame_writeIR (s : State) (n : Nat) :
    s.CommittedOk ((s.writeIR n).commit .ok false) false ∧
      s.Frame ((s.writeIR n).commit .ok false) (fun _ => False) True False := by
  refine ⟨⟨by simp, by simp, by simp, by simp⟩, ?_⟩
  constructor <;> simp

/-- An error commit changes STATUS and BUSY only. -/
theorem committedError_commit (s : State) (c : CompletionCode) (h : c ≠ .ok) : s.CommittedError (s.commit c false) c := by
  refine ⟨by simp, by simp, by simp, by simp [h], ?_⟩
  constructor <;> simp

/-! ### The three shapes of command -/

/-- A limb command commits `f` of its two limb operands, or raises OUT_OF_RANGE_LIMB. -/
theorem limbCommand_cases (s : State) (f : Nat → Nat → Nat × Nat) (rd rs1 rs2 : Fin 16) :
    (isLimb (s.limbOperand rs1) = true ∧ isLimb (s.limbOperand rs2) = true ∧
      s.limbCommand f rd rs1 rs2 =
        .next ((s.writeF rd (limbPair (f (s.limbOperand rs1).toNat (s.limbOperand rs2).toNat).1
          (f (s.limbOperand rs1).toNat (s.limbOperand rs2).toNat).2)).commit .ok false)) ∨
    ((isLimb (s.limbOperand rs1) && isLimb (s.limbOperand rs2)) = false ∧
      s.limbCommand f rd rs1 rs2 = .next (s.commit .outOfRangeLimb false)) := by
  cases h1 : isLimb (s.limbOperand rs1) <;> cases h2 : isLimb (s.limbOperand rs2) <;>
    simp [State.limbCommand, State.complete, State.raise, h1, h2]

/-- A two-operand field command commits `f` of its valid operands, or raises OUT_OF_RANGE_FIELD_ELEMENT. -/
theorem fieldCommand_cases (s : State) (f : Pair → Pair → Pair) (rd rs1 rs2 : Fin 16) :
    (validFE (s.feOperand rs1) = true ∧ validFE (s.feOperand rs2) = true ∧
      s.fieldCommand f rd rs1 rs2 =
        .next ((s.writeF rd (f (s.feOperand rs1) (s.feOperand rs2))).commit .ok false)) ∨
    ((validFE (s.feOperand rs1) && validFE (s.feOperand rs2)) = false ∧
      s.fieldCommand f rd rs1 rs2 = .next (s.commit .outOfRangeFieldElement false)) := by
  cases h1 : validFE (s.feOperand rs1) <;> cases h2 : validFE (s.feOperand rs2) <;>
    simp [State.fieldCommand, State.complete, State.raise, h1, h2]

/-- A point command on valid operands commits its point. -/
theorem pointCommand_valid (s : State) (rd : Fin 8) (p : Point) :
    s.pointCommand true rd p = .next ((s.writePoint rd p).commit .ok false) := rfl

/-- A point command on an invalid operand raises OUT_OF_RANGE_FIELD_ELEMENT. -/
theorem pointCommand_invalid (s : State) (rd : Fin 8) (p : Point) :
    s.pointCommand false rd p = .next (s.commit .outOfRangeFieldElement false) := rfl

/-! ### The host's accesses -/

theorem word_setWord (b : Bank) (d d' : DataWord) (w : Word) :
    (b.setWord d w).word d' = if d = d' then RegWord.put w else b.word d' := by
  cases d with
  | f i h =>
    cases d' with
    | f j h' =>
      by_cases hij : i = j
      · subst hij
        cases h <;> cases h' <;> simp [Bank.setWord, Bank.word, Reg.setHalf, Reg.half]
      · simp [Bank.setWord, Bank.word, setF_freg, hij]
    | ir h' => simp [Bank.setWord, Bank.word]
    | a24 h' => simp [Bank.setWord, Bank.word]
  | ir h =>
    cases d' with
    | ir h' => cases h <;> cases h' <;> simp [Bank.setWord, Bank.word, Reg.setHalf, Reg.half]
    | f j h' => simp [Bank.setWord, Bank.word]
    | a24 h' => simp [Bank.setWord, Bank.word]
  | a24 h =>
    cases d' with
    | a24 h' => cases h <;> cases h' <;> simp [Bank.setWord, Bank.word, Reg.setHalf, Reg.half]
    | f j h' => simp [Bank.setWord, Bank.word]
    | ir h' => simp [Bank.setWord, Bank.word]

theorem writeReg_idle_data (s : State) (d : DataWord) (v : Word) (h : s.busy = false) :
    s.writeReg (.data d) v = { s with data := s.data.setWord d v } := by simp [State.writeReg, h]

theorem writeReg_busy_data (s : State) (d : DataWord) (v : Word) (h : s.busy = true) :
    s.writeReg (.data d) v = s.drop := by simp [State.writeReg, h]

theorem writeReg_idle_cmd (s : State) (v : Word) (h : s.busy = false) : s.writeReg .cmd v = s.issue v := by
  simp [State.writeReg, h]

theorem writeReg_busy_cmd (s : State) (v : Word) (h : s.busy = true) : s.writeReg .cmd v = s.drop := by
  simp [State.writeReg, h]

/-- The four kinds of a port cycle. -/
theorem portCycle_cases (s : State) (p : PortIn) :
    (p.rst = true ∧ s.portCycle p = s.resetEdge p) ∨
    (p.rst = false ∧ p.req = true ∧ p.we = true ∧ s.portCycle p = s.writeReg (windowReg p.addr) p.wdata) ∨
    (p.rst = false ∧ p.req = true ∧ p.we = false ∧ s.portCycle p = { s with rdata := some (s.hostRead p.addr) }) ∨
    (p.rst = false ∧ p.req = false ∧ s.portCycle p = s) := by
  cases h1 : p.rst <;> cases h2 : p.req <;> cases h3 : p.we <;> simp [State.portCycle, State.hostWrite, h1, h2, h3]

/-! ### The engine -/

/-- What the engine's commit is: nothing when idle, the command's meaning, or the error of an illegal word. -/
theorem engineCommit_cases (s : State) :
    (s.pending = none ∧ engineCommit s = .next s) ∨
    (∃ p i, s.pending = some p ∧ decode p.word = some i ∧ engineCommit s = exec i s) ∨
    (∃ p, s.pending = some p ∧ decode p.word = none ∧ engineCommit s = .next (s.commit .illegalCommand false)) := by
  cases hp : s.pending with
  | none => exact .inl ⟨rfl, by simp [engineCommit, hp]⟩
  | some p =>
    cases hd : decode p.word with
    | none => exact .inr (.inr ⟨p, rfl, hd, by simp [engineCommit, hp, hd, State.raise]⟩)
    | some i => exact .inr (.inl ⟨p, i, rfl, hd, by simp [engineCommit, hp, hd]⟩)

/-- Hidden progress changes the running command's working registers at most. -/
theorem work_cases (s : State) :
    s.work = s ∨
    (∃ p rd rs1 rs2, s.pending = some p ∧ decode p.word = some (.pladder rd rs1 rs2) ∧ s.ladderRuns rs1 rs2 = true ∧
      s.work = { s with pending := some { p with ladder := some (s.ladderProgress rs1 rs2) } }) := by
  cases hp : s.pending with
  | none => exact .inl (by simp [State.work, hp])
  | some p =>
    cases hd : decode p.word with
    | none => exact .inl (by simp [State.work, hp, hd])
    | some i =>
      cases i
      case pladder rd rs1 rs2 =>
        by_cases hr : s.ladderRuns rs1 rs2 = true
        · exact .inr ⟨p, rd, rs1, rs2, rfl, hd, hr, by simp [State.work, hp, hd, hr]⟩
        · exact .inl (by simp [State.work, hp, hd, hr])
      all_goals exact .inl (by simp [State.work, hp, hd])

end Sys2Proof.Laws
end

