-- ==== Sys2Proof/Laws/Exec.lean ====
section
/-! SUPPORT. What executing a command can do, said once for all fourteen: an error commit, or a write of its destination with
a commit of code OK. -/

namespace Sys2Proof.Laws

open Sys2Proof.Machine

/-- The shape of a command's outcome. -/
def ExecShape (i : Instr) (s : State) (o : Outcome) : Prop :=
  (∃ c, c ≠ .ok ∧ o = .next (s.commit c false)) ∨
  (∃ rd p, destinations i = (fWords rd).map .data ∧ o = .next ((s.writeF rd p).commit .ok false)) ∨
  (∃ rd p, destinations i = (pWords rd).map .data ∧ (∀ a b k, i = .pladder a b k → val (s.feOperand k) ≠ 0) ∧
    o = .next ((s.writePoint rd p).commit .ok false)) ∨
  (∃ rd rs1 rs2, i = .pladder rd rs1 rs2 ∧ val (s.feOperand rs2) = 0 ∧
    o = .next ((s.writePoint rd ladderZero).commit .ok true)) ∨
  (∃ w : Word, w.toNat ≤ 2 ∧ destinations i = [.result] ∧ o = .next ((s.writeResult w).commit .ok false)) ∨
  (∃ rs1 n, i = .ftoint rs1 ∧ o = .next ((s.writeIR n).commit .ok false))

theorem limbCommand_shape (i : Instr) (s : State) (f : Nat → Nat → Nat × Nat) (rd rs1 rs2 : Fin 16)
    (hd : destinations i = (fWords rd).map .data) : ExecShape i s (s.limbCommand f rd rs1 rs2) := by
  rcases limbCommand_cases s f rd rs1 rs2 with ⟨_, _, h⟩ | ⟨_, h⟩
  · exact .inr (.inl ⟨rd, _, hd, h⟩)
  · exact .inl ⟨.outOfRangeLimb, by simp, h⟩

theorem fieldCommand_shape (i : Instr) (s : State) (f : Pair → Pair → Pair) (rd rs1 rs2 : Fin 16)
    (hd : destinations i = (fWords rd).map .data) : ExecShape i s (s.fieldCommand f rd rs1 rs2) := by
  rcases fieldCommand_cases s f rd rs1 rs2 with ⟨_, _, h⟩ | ⟨_, h⟩
  · exact .inr (.inl ⟨rd, _, hd, h⟩)
  · exact .inl ⟨.outOfRangeFieldElement, by simp, h⟩

theorem pointCommand_shape (i : Instr) (s : State) (valid : Bool) (rd : Fin 8) (p : Point)
    (hd : destinations i = (pWords rd).map .data) (hi : ∀ a b k, i ≠ .pladder a b k) :
    ExecShape i s (s.pointCommand valid rd p) := by
  cases valid
  · exact .inl ⟨.outOfRangeFieldElement, by simp, pointCommand_invalid s rd p⟩
  · exact .inr (.inr (.inl ⟨rd, p, hd, fun a b k h => (hi a b k h).elim, pointCommand_valid s rd p⟩))

theorem raise_shape (i : Instr) (s : State) : ExecShape i s (s.raise .outOfRangeFieldElement) :=
  .inl ⟨.outOfRangeFieldElement, by simp, rfl⟩

theorem orderCode_le (o : Order) : o.code.toNat ≤ 2 := by cases o <;> decide

theorem exec_shape (i : Instr) (s : State) : ExecShape i s (exec i s) := by
  cases i with
  | ladd rd rs1 rs2 =>
    exact limbCommand_shape (.ladd rd rs1 rs2) s (fun a b => (0, addLimb a b)) rd rs1 rs2 rfl
  | laddc rd rs1 rs2 =>
    exact limbCommand_shape (.laddc rd rs1 rs2) s (fun a b => ((addLimbWithCarry a b).2, (addLimbWithCarry a b).1)) rd rs1 rs2 rfl
  | lsub rd rs1 rs2 =>
    exact limbCommand_shape (.lsub rd rs1 rs2) s (fun a b => (0, subLimb a b)) rd rs1 rs2 rfl
  | lsubb rd rs1 rs2 =>
    exact limbCommand_shape (.lsubb rd rs1 rs2) s (fun a b => ((subLimbWithBorrow a b).2, (subLimbWithBorrow a b).1)) rd rs1 rs2 rfl
  | fcmp rs1 rs2 =>
    simp only [exec, execFcmp]
    split
    · exact .inr (.inr (.inr (.inr (.inl ⟨_, orderCode_le _, rfl, rfl⟩))))
    · exact raise_shape _ s
  | fval rs1 =>
    refine .inr (.inr (.inr (.inr (.inl ⟨_, ?_, rfl, rfl⟩))))
    split <;> decide
  | fadd rd rs1 rs2 => exact fieldCommand_shape (.fadd rd rs1 rs2) s addCore rd rs1 rs2 rfl
  | fsub rd rs1 rs2 => exact fieldCommand_shape (.fsub rd rs1 rs2) s subCore rd rs1 rs2 rfl
  | fmul rd rs1 rs2 => exact fieldCommand_shape (.fmul rd rs1 rs2) s mulCore rd rs1 rs2 rfl
  | ffromint rd => exact .inr (.inl ⟨rd, _, rfl, rfl⟩)
  | ftoint rs1 =>
    simp only [exec, execFtoint]
    split
    · exact .inr (.inr (.inr (.inr (.inr ⟨rs1, _, rfl, rfl⟩))))
    · exact raise_shape _ s
  | pdbl rd rs1 =>
    simp only [exec, execPdbl]
    exact pointCommand_shape _ s _ rd _ rfl (by simp)
  | padd rd rs1 rs2 rs3 =>
    simp only [exec, execPadd]
    exact pointCommand_shape _ s _ rd _ rfl (by simp)
  | pladder rd rs1 rs2 =>
    simp only [exec, execPladder]
    split
    · split
      · rename_i hk
        exact .inr (.inr (.inr (.inl ⟨rd, rs1, rs2, rfl, hk, rfl⟩)))
      · rename_i hk
        refine .inr (.inr (.inl ⟨rd, _, rfl, ?_, rfl⟩))
        rintro a b k h
        cases h
        exact hk
    · exact raise_shape _ s

end Sys2Proof.Laws
end

