-- ==== Sys2Proof/Laws/PerInstr.lean ====
section
/-! SUPPORT. A statement about each command as syntax: the registers it may write, STATUS apart. -/

namespace Sys2Proof.Laws.WritableDestinations

open Sys2Proof.Machine

/-- 10_state R38, R39, R42, 30_encoding R83: a command names at least one destination, and never A24, CMD, STATUS or a reserved
offset. -/
def Statement (i : Instr) : Prop :=
  destinations i ≠ [] ∧
    ∀ r ∈ destinations i, r ≠ .cmd ∧ r ≠ .status ∧ r ≠ .reserved ∧ ∀ h, r ≠ .data (.a24 h)

theorem ladd (rd rs1 rs2 : FIdx) : Statement (.ladd rd rs1 rs2) := by simp [Statement, destinations, fWords]
theorem laddc (rd rs1 rs2 : FIdx) : Statement (.laddc rd rs1 rs2) := by simp [Statement, destinations, fWords]
theorem lsub (rd rs1 rs2 : FIdx) : Statement (.lsub rd rs1 rs2) := by simp [Statement, destinations, fWords]
theorem lsubb (rd rs1 rs2 : FIdx) : Statement (.lsubb rd rs1 rs2) := by simp [Statement, destinations, fWords]
theorem fcmp (rs1 rs2 : FIdx) : Statement (.fcmp rs1 rs2) := by simp [Statement, destinations]
theorem fval (rs1 : FIdx) : Statement (.fval rs1) := by simp [Statement, destinations]
theorem fadd (rd rs1 rs2 : FIdx) : Statement (.fadd rd rs1 rs2) := by simp [Statement, destinations, fWords]
theorem fsub (rd rs1 rs2 : FIdx) : Statement (.fsub rd rs1 rs2) := by simp [Statement, destinations, fWords]
theorem fmul (rd rs1 rs2 : FIdx) : Statement (.fmul rd rs1 rs2) := by simp [Statement, destinations, fWords]
theorem ffromint (rd : FIdx) : Statement (.ffromint rd) := by simp [Statement, destinations, fWords]
theorem ftoint (rs1 : FIdx) : Statement (.ftoint rs1) := by simp [Statement, destinations]
theorem pdbl (rd rs1 : PIdx) : Statement (.pdbl rd rs1) := by simp [Statement, destinations, pWords, fWords]
theorem padd (rd rs1 rs2 rs3 : PIdx) : Statement (.padd rd rs1 rs2 rs3) := by simp [Statement, destinations, pWords, fWords]
theorem pladder (rd rs1 : PIdx) (rs2 : FIdx) : Statement (.pladder rd rs1 rs2) := by
  simp [Statement, destinations, pWords, fWords]

end Sys2Proof.Laws.WritableDestinations
end

