-- ==== Sys2Proof/Laws/Step.lean ====
section
/-! SUPPORT. What a step can do, said once; and that a command neither reads nor writes the port and the agenda, so that runs
of an agenda can be taken apart one event at a time. -/

namespace Sys2Proof.Laws

open Sys2Proof.Machine

/-! ### Runs -/

/-- One step of a run of any machine. -/
theorem core_run_of_next (M : Host.Core) (k : Nat) {s t : M.State} (h : M.step s = .next t) : M.run (k + 1) s = M.run k t := by
  simp [Host.Core.run, h]

/-- One step of a run of this machine. -/
theorem run_of_next (k : Nat) {s t : State} (h : step s = .next t) :
    Host.Core.run core (k + 1) s = Host.Core.run core k t := core_run_of_next core k h

/-- The three kinds of a step: the engine's commit, hidden progress, or a cycle of the port. -/
theorem step_cases {s : State} {o : Outcome} (h : step s = o) :
    (s.commitNext ∧ o = engineCommit s.advance) ∨
    (s.agenda.head? = some .work ∧ o = .next s.advance.work) ∨
    (∃ p, s.hostNext p ∧ o = .next (s.advance.portCycle p)) := by
  subst h
  unfold step
  cases ha : s.agenda with
  | nil => exact .inl ⟨.inl ha, rfl⟩
  | cons e r =>
    cases e with
    | host p => exact .inr (.inr ⟨p, by simp [State.hostNext, ha], rfl⟩)
    | work => exact .inr (.inl ⟨rfl, rfl⟩)
    | commit => exact .inl ⟨.inr (by simp [ha]), rfl⟩

/-- A step whose next event is a cycle of the port. -/
theorem step_host (s : State) (p : PortIn) (rest : List Event) (h : s.agenda = .host p :: rest) :
    step s = .next (s.advance.portCycle p) := by simp [step, h, runEvent]

/-- A step whose next event is the engine's commit. -/
theorem step_commit (s : State) (h : s.commitNext) : step s = engineCommit s.advance := by
  rcases h with h | h
  · simp [step, h]
  · cases ha : s.agenda with
    | nil => simp [ha] at h
    | cons e r =>
      rw [ha] at h
      simp only [List.head?_cons, Option.some.injEq] at h
      subst h
      simp [step, ha, runEvent]

/-! ### The port and the agenda do not matter to a command -/

/-- `s` with other read data and another agenda. -/
def withPort (s : State) (r : Option Word) (a : List Event) : State := { s with rdata := r, agenda := a }

theorem withPort_self (s : State) : withPort s s.rdata s.agenda = s := rfl

theorem advance_eq_withPort (s : State) : s.advance = withPort s none s.agenda.tail := rfl

@[simp] theorem withPort_operands (s : State) (r : Option Word) (a : List Event) : (withPort s r a).operands = s.operands := rfl

@[simp] theorem withPort_working (s : State) (r : Option Word) (a : List Event) : (withPort s r a).working = s.working := rfl

@[simp] theorem withPort_feOperand (s : State) (r : Option Word) (a : List Event) (i : Fin 16) :
    (withPort s r a).feOperand i = s.feOperand i := rfl

@[simp] theorem withPort_limbOperand (s : State) (r : Option Word) (a : List Event) (i : Fin 16) :
    (withPort s r a).limbOperand i = s.limbOperand i := rfl

@[simp] theorem withPort_pointOperand (s : State) (r : Option Word) (a : List Event) (k : Fin 8) :
    (withPort s r a).pointOperand k = s.pointOperand k := rfl

@[simp] theorem withPort_irOperand (s : State) (r : Option Word) (a : List Event) :
    (withPort s r a).irOperand = s.irOperand := rfl

@[simp] theorem withPort_a24Operand (s : State) (r : Option Word) (a : List Event) :
    (withPort s r a).a24Operand = s.a24Operand := rfl

@[simp] theorem withPort_writeF (s : State) (r : Option Word) (a : List Event) (i : Fin 16) (p : Pair) :
    (withPort s r a).writeF i p = withPort (s.writeF i p) r a := rfl

@[simp] theorem withPort_writePoint (s : State) (r : Option Word) (a : List Event) (k : Fin 8) (p : Point) :
    (withPort s r a).writePoint k p = withPort (s.writePoint k p) r a := rfl

@[simp] theorem withPort_writeIR (s : State) (r : Option Word) (a : List Event) (n : Nat) :
    (withPort s r a).writeIR n = withPort (s.writeIR n) r a := rfl

@[simp] theorem withPort_writeResult (s : State) (r : Option Word) (a : List Event) (w : Word) :
    (withPort s r a).writeResult w = withPort (s.writeResult w) r a := rfl

@[simp] theorem withPort_commit (s : State) (r : Option Word) (a : List Event) (c : CompletionCode) (z : Bool) :
    (withPort s r a).commit c z = withPort (s.commit c z) r a := rfl

@[simp] theorem withPort_a24Written (s : State) (r : Option Word) (a : List Event) :
    (withPort s r a).a24Written = s.a24Written := rfl

theorem withPort_ladderOperandsValid (s : State) (r : Option Word) (a : List Event) (rs1 : Fin 8) (rs2 : Fin 16) :
    (withPort s r a).ladderOperandsValid rs1 rs2 = s.ladderOperandsValid rs1 rs2 := by
  simp only [State.ladderOperandsValid, withPort_pointOperand, withPort_feOperand, withPort_a24Operand]

theorem withPort_ladderPoint (s : State) (r : Option Word) (a : List Event) (rs1 : Fin 8) (rs2 : Fin 16) :
    (withPort s r a).ladderPoint rs1 rs2 = s.ladderPoint rs1 rs2 := by
  simp only [State.ladderPoint, withPort_pointOperand, withPort_feOperand, withPort_a24Operand, withPort_working]

/-- A choice between two next states commutes with a change of the port. -/
theorem ite_withPort (c : Prop) [Decidable c] (x y : State) (r : Option Word) (a : List Event) {u : State}
    (h : (if c then Host.Outcome.next x else Host.Outcome.next y : Outcome) = .next u) :
    (if c then Host.Outcome.next (withPort x r a) else Host.Outcome.next (withPort y r a) : Outcome) =
      .next (withPort u r a) := by
  split at h <;> cases h <;> simp only [*, if_true, if_false]

theorem limbCommand_withPort (s u : State) (r : Option Word) (a : List Event) (f : Nat → Nat → Nat × Nat)
    (rd rs1 rs2 : Fin 16) (h : s.limbCommand f rd rs1 rs2 = .next u) :
    (withPort s r a).limbCommand f rd rs1 rs2 = .next (withPort u r a) := by
  simp only [State.limbCommand, State.complete, State.raise, withPort_limbOperand, withPort_writeF, withPort_commit] at h ⊢
  exact ite_withPort _ _ _ r a h

theorem fieldCommand_withPort (s u : State) (r : Option Word) (a : List Event) (f : Pair → Pair → Pair)
    (rd rs1 rs2 : Fin 16) (h : s.fieldCommand f rd rs1 rs2 = .next u) :
    (withPort s r a).fieldCommand f rd rs1 rs2 = .next (withPort u r a) := by
  simp only [State.fieldCommand, State.complete, State.raise, withPort_feOperand, withPort_writeF, withPort_commit] at h ⊢
  exact ite_withPort _ _ _ r a h

theorem pointCommand_withPort (s u : State) (r : Option Word) (a : List Event) (valid : Bool) (rd : Fin 8) (p : Point)
    (h : s.pointCommand valid rd p = .next u) : (withPort s r a).pointCommand valid rd p = .next (withPort u r a) := by
  simp only [State.pointCommand, State.complete, State.raise, withPort_writePoint, withPort_commit] at h ⊢
  exact ite_withPort _ _ _ r a h

/-- A command's outcome carries the port and the agenda along unchanged. -/
theorem exec_withPort (i : Instr) (s u : State) (r : Option Word) (a : List Event) (h : exec i s = .next u) :
    exec i (withPort s r a) = .next (withPort u r a) := by
  cases i <;> simp only [exec, execLadd, execLaddc, execLsub, execLsubb, execFadd, execFsub, execFmul] at h ⊢
  case ladd | laddc | lsub | lsubb => exact limbCommand_withPort _ _ _ _ _ _ _ _ h
  case fadd | fsub | fmul => exact fieldCommand_withPort _ _ _ _ _ _ _ _ h
  case fcmp =>
    simp only [execFcmp, State.complete, State.raise, withPort_feOperand, withPort_writeResult, withPort_commit] at h ⊢
    exact ite_withPort _ _ _ r a h
  case fval =>
    simp only [execFval, State.complete, withPort_feOperand, withPort_writeResult, withPort_commit] at h ⊢
    cases h
    rfl
  case ffromint =>
    simp only [execFfromint, State.complete, withPort_irOperand, withPort_writeF, withPort_commit] at h ⊢
    cases h
    rfl
  case ftoint =>
    simp only [execFtoint, State.complete, State.raise, withPort_feOperand, withPort_writeIR, withPort_commit] at h ⊢
    exact ite_withPort _ _ _ r a h
  case pdbl rd rs1 =>
    simp only [execPdbl, withPort_pointOperand, withPort_a24Operand, withPort_a24Written] at h ⊢
    exact pointCommand_withPort _ _ _ _ _ _ _ h
  case padd rd rs1 rs2 rs3 =>
    simp only [execPadd, withPort_pointOperand] at h ⊢
    exact pointCommand_withPort _ _ _ _ _ _ _ h
  case pladder rd rs1 rs2 =>
    simp only [execPladder, State.complete, State.raise, withPort_ladderOperandsValid, withPort_ladderPoint,
      withPort_feOperand, withPort_writePoint, withPort_commit] at h ⊢
    by_cases hv : s.ladderOperandsValid rs1 rs2 = true
    · rw [if_pos hv] at h ⊢
      exact ite_withPort _ _ _ r a h
    · rw [if_neg hv] at h ⊢
      cases h
      rfl

/-- Every command ends in a next state. -/
theorem exec_next (i : Instr) (s : State) : ∃ t, exec i s = .next t := by
  rcases exec_shape i s with ⟨_, _, h⟩ | ⟨_, _, _, h⟩ | ⟨_, _, _, _, h⟩ | ⟨_, _, _, _, _, h⟩ | ⟨_, _, _, h⟩ | ⟨_, _, _, h⟩ <;>
    exact ⟨_, h⟩

end Sys2Proof.Laws
end

