-- ==== Sys2Proof/Tests/Slice0.lean ====
section
/-! SUPPORT. The model's own tests: ill-formed words, words written out from the spec's encodings, at most two one-step
vectors per command (spec 95_test_vectors.md, the vector's id at each), and one witness of the hypotheses of every statement that has
some. -/

namespace Sys2Proof.Tests

open Sys2Proof.Machine Sys2Proof.Laws

/-! ### WellFormed: one ill-formed term for each check (30_encoding R82, R87) -/

theorem test_unassigned_opcode : Fields.wellFormed ⟨0x00, 0, 0, 0, 0, 0⟩ = false := by decide
theorem test_reserved_bits_set : Fields.wellFormed ⟨0x01, 2, 0, 1, 0, 1⟩ = false := by decide
theorem test_unused_rd : Fields.wellFormed ⟨0x10, 1, 0, 1, 0, 0⟩ = false := by decide
theorem test_unused_rs1 : Fields.wellFormed ⟨0x15, 0, 15, 0, 0, 0⟩ = false := by decide
theorem test_unused_rs2 : Fields.wellFormed ⟨0x11, 0, 0, 1, 0, 0⟩ = false := by decide
theorem test_unused_rs3 : Fields.wellFormed ⟨0x12, 2, 0, 1, 1, 0⟩ = false := by decide
theorem test_point_rd_too_large : Fields.wellFormed ⟨0x22, 15, 0, 5, 0, 0⟩ = false := by decide
theorem test_point_rs1_too_large : Fields.wellFormed ⟨0x20, 0, 8, 0, 0, 0⟩ = false := by decide
theorem test_point_rs2_too_large : Fields.wellFormed ⟨0x21, 7, 7, 8, 7, 0⟩ = false := by decide
theorem test_point_rs3_too_large : Fields.wellFormed ⟨0x21, 7, 7, 7, 8, 0⟩ = false := by decide
theorem test_well_formed_padd : Fields.wellFormed ⟨0x21, 7, 7, 7, 7, 0⟩ = true := by decide

/-! ### Decoding: words written out field by field, RES RS3 RS2 RS1 RD OP (30_encoding R81, R85) -/

theorem test_decode_ladd : decode 0b00000000_0000_0001_0000_0010_00000001#32 = some (.ladd 2 0 1) := by decide
theorem test_decode_laddc : decode 0b00000000_0000_1111_0111_1000_00000010#32 = some (.laddc 8 7 15) := by decide
theorem test_decode_lsub : decode 0b00000000_0000_0001_0000_0010_00000011#32 = some (.lsub 2 0 1) := by decide
theorem test_decode_lsubb : decode 0b00000000_0000_1000_0100_0001_00000100#32 = some (.lsubb 1 4 8) := by decide
theorem test_decode_fcmp : decode 0b00000000_0000_0001_0000_0000_00010000#32 = some (.fcmp 0 1) := by decide
theorem test_decode_fval : decode 0b00000000_0000_0000_0011_0000_00010001#32 = some (.fval 3) := by decide
theorem test_decode_fadd : decode 0b00000000_0000_0101_0011_0110_00010010#32 = some (.fadd 6 3 5) := by decide
theorem test_decode_fsub : decode 0b00000000_0000_0000_0001_0101_00010011#32 = some (.fsub 5 1 0) := by decide
theorem test_decode_fmul : decode 0b00000000_0000_1111_1111_1111_00010100#32 = some (.fmul 15 15 15) := by decide
theorem test_decode_ffromint : decode 0b00000000_0000_0000_0000_0100_00010101#32 = some (.ffromint 4) := by decide
theorem test_decode_ftoint : decode 0b00000000_0000_0000_0011_0000_00010110#32 = some (.ftoint 3) := by decide
theorem test_decode_pdbl : decode 0b00000000_0000_0000_0000_0001_00100000#32 = some (.pdbl 1 0) := by decide
theorem test_decode_padd : decode 0b00000000_0000_0010_0001_0011_00100001#32 = some (.padd 3 1 2 0) := by decide
theorem test_decode_padd_all : decode 0b00000000_0111_0111_0111_0111_00100001#32 = some (.padd 7 7 7 7) := by decide
theorem test_decode_pladder : decode 0b00000000_0000_1111_0111_0111_00100010#32 = some (.pladder 7 7 15) := by decide

/-- V-D1 to V-D9, and P fields RS2 and RS3 of PADD with bit 3 set. -/
theorem test_decode_refuses :
    decode 0x00000000#32 = none ∧ decode 0x000000FF#32 = none ∧ decode 0x01010201#32 = none ∧
    decode 0x00010110#32 = none ∧ decode 0x00110212#32 = none ∧ decode 0x00010011#32 = none ∧
    decode 0x0000F015#32 = none ∧ decode 0x00008020#32 = none ∧ decode 0x00050F22#32 = none ∧
    decode 0x00080021#32 = none ∧ decode 0x00800021#32 = none := by
  refine ⟨?_, ?_, ?_, ?_, ?_, ?_, ?_, ?_, ?_, ?_, ?_⟩ <;> decide

theorem test_asm : (Instr.padd 3 1 2 0).asm = "PADD P3, P1, P2, P0" ∧ (Instr.pladder 1 0 5).asm = "PLADDER P1, P0, F5" :=
  ⟨rfl, rfl⟩

theorem test_encode_pladder : encode (.pladder 1 0 5) = 0x00050122#32 := by decide

/-! ### One step per vector -/

/-- The raw pair of two words. -/
def raw (hi lo : Nat) : Pair := ⟨BitVec.ofNat 32 hi, BitVec.ofNat 32 lo⟩

/-- The reset machine with a list of field registers written, from F0 on. -/
def loadF : List Pair → Fin 16 → State → State
  | [], _, s => s
  | p :: ps, i, s => loadF ps (i + 1) (s.writeF i p)

/-- The machine with field registers from F0 on and A24 written. -/
def machine (ps : List Pair) (a24 : Pair) : State :=
  let s := loadF ps 0 State.reset
  { s with data := { s.data with a24 := Reg.put a24 } }

/-- The test curve's A24 (95_test_vectors). -/
def curveA24 : Pair := fe 121666

/-- One step on a placed command word, and what is asked of the next state. -/
def after (w : Nat) (s : State) (q : State → Bool) : Bool :=
  match step (s.withFetchWord 32 w) with
  | .next t => q t
  | .fault _ => false
  | .refused _ => false

/-- F[i] holds the pair, both words written. -/
def holds (i : Fin 16) (p : Pair) (t : State) : Bool := t.data.freg i == Reg.put p

/-- P[k] holds the point with the given coordinate values. -/
def holdsPoint (k : Fin 8) (x z : Nat) (t : State) : Bool := holds (pointX k) (fe x) t && holds (pointZ k) (fe z) t

/-- STATUS reads as given. -/
def status (w : Nat) (t : State) : Bool := (t.hostRead 0x9C#8).toNat == w

/-- V-LB2. -/
theorem test_ladd_wraps : after 0x00010201 (machine [raw 0 0x7FFFFFFF, raw 0 1] curveA24)
    (fun t => holds 2 (raw 0 0) t && status 0 t) = true := by decide
/-- V-LB9. -/
theorem test_ladd_bit31 : after 0x00010201 (machine [raw 0 0x80000000, raw 0 3, raw 0 77] curveA24)
    (fun t => holds 2 (raw 0 77) t && status 0x130 t) = true := by decide
/-- V-LB11: RD = RS1 = RS2. -/
theorem test_laddc_aliased : after 0x00000002 (machine [raw 0 0x40000000] curveA24) (holds 0 (raw 1 0)) = true := by decide
/-- V-LB4. -/
theorem test_lsub_wraps : after 0x00010203 (machine [raw 0 0, raw 0 1] curveA24) (holds 2 (raw 0 0x7FFFFFFF)) = true := by
  decide
/-- V-LB6. -/
theorem test_lsubb_borrows : after 0x00010204 (machine [raw 0 0x075BCD15, raw 0 0x3ADE68B1] curveA24)
    (holds 2 (raw 1 0x4C7D6464)) = true := by decide
/-- V-LB10. -/
theorem test_lsubb_bit31 : after 0x00010204 (machine [raw 0 3, raw 0 0xFFFFFFFF, raw 0 77] curveA24)
    (fun t => holds 2 (raw 0 77) t && status 0x130 t) = true := by decide
/-- V-F12. -/
theorem test_fcmp_less : after 0x00010010 (machine [raw 0 2147483647, raw 1 0] curveA24)
    (fun t => t.hostRead 0x90#8 == 1#32) = true := by decide
/-- V-F11. -/
theorem test_fcmp_greater : after 0x00010010 (machine [fe 2305843009213693950, fe 0] curveA24)
    (fun t => t.hostRead 0x90#8 == 2#32) = true := by decide
/-- V-S2: p − 1 is valid. -/
theorem test_fval_largest : after 0x00003011 (machine [fe 0, fe 0, fe 0, raw 1073741823 2147483646] curveA24)
    (fun t => t.hostRead 0x90#8 == 1#32 && status 0 t) = true := by decide
/-- V-S2: p is not. -/
theorem test_fval_p : after 0x00003011 (machine [fe 0, fe 0, fe 0, raw 1073741823 2147483647] curveA24)
    (fun t => t.hostRead 0x90#8 == 0#32 && t.result.written && status 0 t) = true := by decide
/-- V-F2. -/
theorem test_fadd_reduces : after 0x00010212 (machine [fe 2305843009213693950, fe 2305843009213693950] curveA24)
    (holds 2 (raw 1073741823 2147483645)) = true := by decide
/-- V-F23. -/
theorem test_fadd_invalid : after 0x00010212 (machine [raw 1073741823 2147483647, fe 1, raw 0 77] curveA24)
    (fun t => holds 2 (raw 0 77) t && status 0x110 t) = true := by decide
/-- V-F8: the subtrahend 0. -/
theorem test_fsub_zero : after 0x00010213 (machine [fe 5, fe 0] curveA24) (holds 2 (raw 0 5)) = true := by decide
/-- V-F7. -/
theorem test_fsub_borrows : after 0x00010213 (machine [raw 574890472 2112454933, raw 459912382 2129924785] curveA24)
    (holds 2 (raw 114978089 2130013796)) = true := by decide
/-- V-F7. -/
theorem test_fmul_large : after 0x00010214 (machine [raw 574890472 2112454933, raw 459912382 2129924785] curveA24)
    (holds 2 (raw 316316779 1049728910)) = true := by decide
/-- V-F24. -/
theorem test_fmul_invalid : after 0x00010214 (machine [fe 1, raw 0 0x80000000, raw 0 77] curveA24)
    (fun t => holds 2 (raw 0 77) t && status 0x110 t) = true := by decide
/-- V-S3: 2^64 − 1. -/
theorem test_ffromint_largest : after 0x00000415 (State.reset.writeIR 0xFFFFFFFFFFFFFFFF) (holds 4 (raw 0 7)) = true := by
  decide
/-- V-S3. -/
theorem test_ffromint_reduces : after 0x00000415 (State.reset.writeIR 12345678901234567890)
    (holds 4 (raw 380195609 1797196503)) = true := by decide
/-- V-F19. -/
theorem test_ftoint_largest : after 0x00003016 (machine [fe 0, fe 0, fe 0, fe 2305843009213693950] curveA24)
    (fun t => t.hostRead 0x84#8 == 0x1FFFFFFF#32 && t.hostRead 0x80#8 == 0xFFFFFFFE#32) = true := by decide
/-- V-F18. -/
theorem test_ftoint_limbs : after 0x00003016 (machine [fe 0, fe 0, fe 0, raw 1 5] curveA24)
    (fun t => t.hostRead 0x84#8 == 0#32 && t.hostRead 0x80#8 == 0x80000005#32) = true := by decide
/-- V-P1. -/
theorem test_pdbl : after 0x00000120 (machine [fe 9, fe 1] curveA24) (holdsPoint 1 6400 157681440) = true := by decide
/-- R163: A24 never written, the point valid and the stored A24 a valid element. -/
theorem test_pdbl_unwritten_a24 : after 0x00000120 (loadF [fe 9, fe 1, fe 3, fe 4] 0 State.reset)
    (fun t => holdsPoint 1 3 4 t && status 0x110 t) = true := by decide
/-- V-P3. -/
theorem test_padd : after 0x00001221 (machine [fe 9, fe 1, fe 6400, fe 157681440] curveA24)
    (holdsPoint 2 99381099745382400 1019993673083097119) = true := by decide
/-- V-P7: a wrong difference operand is no error. -/
theorem test_padd_wrong_difference :
    after 0x00301221 (machine [fe 9, fe 1, fe 6400, fe 157681440, fe 0, fe 0, fe 5, fe 1] curveA24)
      (fun t => holdsPoint 2 99381099745382400 1079072709315874833 t && status 0 t) = true := by decide
/-- V-L11. -/
theorem test_pladder : after 0x00050122 (machine [fe 9, fe 1, fe 0, fe 0, fe 0, fe 0x0123456789ABCDEF] curveA24)
    (holdsPoint 1 1312061375386531622 1434746522891545420) = true := by decide +kernel
/-- V-L0. -/
theorem test_pladder_zero : after 0x00050122 (machine [fe 9, fe 1, fe 3, fe 3, fe 0, fe 0] curveA24)
    (fun t => holdsPoint 1 1 0 t && status 2 t) = true := by decide
/-- V-D1. -/
theorem test_illegal : after 0x00000000 (machine [raw 0 77] curveA24) (fun t => holds 0 (raw 0 77) t && status 0x120 t) = true := by
  decide

/-! ### STATUS and the window -/

/-- V-ST1. -/
theorem test_reset_status : State.reset.hostRead 0x9C#8 = 0#32 ∧ State.reset.hostRead 0x98#8 = 0#32 := by decide
/-- V-ST3: CLRERR on STATUS = 0x120. -/
theorem test_clrerr : after 0x00000000 State.reset (fun t => status 0x020 (t.hostWrite 0x9C#8 0x300#32)) = true := by decide
/-- V-ST5: a write in the cycle after the issue is dropped and sets OVR. -/
theorem test_write_while_busy :
    let t := ((machine [raw 0 77] curveA24).hostWrite 0x98#8 0x00000011#32).hostWrite 0x00#8 5#32
    holds 0 (raw 0 77) t = true ∧ t.hostRead 0x9C#8 = 0x201#32 := by decide
/-- V-ST6. -/
theorem test_reserved_reads_zero : State.reset.hostRead 0x94#8 = 0#32 ∧ State.reset.hostRead 0xFC#8 = 0#32 := by decide
/-- V-ST8. -/
theorem test_status_read_only_bits : after 0x00000011 State.reset (fun _ => true) = true ∧
    statusWord false (Status.atHostWrite ⟨false, .outOfRangeFieldElement, true, false⟩ 0x0FF#32) = 0x110#32 := by decide
/-- V-ST9. -/
theorem test_misaligned_offset : windowReg 0x9A#8 = .cmd := by decide

/-! ### Witnesses: a concrete case that meets the hypotheses of each statement that has some -/

/-- p − 1, the largest valid element. -/
def largest : Pair := fe 2305843009213693950

theorem canonical_largest : Canonical largest := canonical_fe _ (by decide)
theorem canonical_zero : Canonical (fe 0) := canonical_fe _ (by decide)
theorem canonical_one : Canonical (fe 1) := canonical_fe _ (by decide)

/-- F0 to F15 hold valid elements: p − 1, 1, 6400, 0, 5, 0, 1, ..., and A24 the test constant. -/
def good : State :=
  machine [largest, fe 1, fe 6400, fe 0, fe 5, fe 0, fe 1, fe 2, fe 3, fe 4, fe 5, fe 6, fe 7, fe 8, fe 9, fe 10] curveA24

/-- Every field register holds p, which is not valid, and so does A24. -/
def bad : State := machine (List.replicate 16 Config.pfe) Config.pfe

/-- Every low word has bit 31 set. -/
def badLimbs : State := machine (List.replicate 16 (raw 0 0x80000000)) curveA24

theorem canonical_good (i : FIdx) : Canonical (good.feOperand i) := by
  unfold Canonical
  revert i
  decide

theorem canonical_good_a24 : Canonical good.a24Operand := by unfold Canonical; decide

theorem canonicalPoint_good (k : PIdx) : CanonicalPoint (good.pointOperand k) := ⟨canonical_good _, canonical_good _⟩

theorem not_canonical_bad (i : FIdx) : ¬ Canonical (bad.feOperand i) := by
  unfold Canonical
  revert i
  decide

theorem not_canonical_bad_a24 : ¬ Canonical bad.a24Operand := by unfold Canonical; decide

/-- `good` with a word issued and the engine's commit next. -/
def running (w : Word) : State := good.placeCommand w

/-- `good` with a PLADDER of scalar 5 that has set up its working registers and done one iteration. -/
def climbing : State := ((good.issue 0x00040122#32).work).work

theorem witness_EncodeInvertsDecode : decode 0x00F00021#32 = none ∧ decode 0x00777721#32 = some (.padd 7 7 7 7) := by decide

theorem witness_OpcodeTableRowsDisjoint : ∃ r ∈ opcodeRows, r.selects 0x00777721#32 = true :=
  ⟨⟨0x00000021#32, 0xFF8888FF#32, fun x => .padd (pIdx x.rd) (pIdx x.rs1) (pIdx x.rs2) (pIdx x.rs3)⟩,
    by simp [opcodeRows, curveRows], by decide⟩

theorem witness_StepRunsDecodedCommand_agenda : (running 0x00010212#32).pending.map (fun p => decode p.word) =
    some (some (.fadd 2 0 1)) ∧ (running 0x00010212#32).commitNext := ⟨by decide, .inr rfl⟩

theorem witness_StepRunsDecodedCommand_empty : (good.issue 0x00010212#32).pending.map (fun p => decode p.word) =
    some (some (.fadd 2 0 1)) ∧ (good.issue 0x00010212#32).commitNext := ⟨by decide, .inl rfl⟩

theorem witness_StepRunsDecodedCommand_word : decodeTableWord 32 0x00777721 = some (.padd 7 7 7 7) := by decide

theorem witness_IllegalWordCommitsIllegalCommand : (running 0x000000FF#32).pending.map (fun p => decode p.word) = some none ∧
    (running 0x000000FF#32).commitNext := ⟨by decide, .inr rfl⟩

theorem witness_EveryStepGivesNextState : State.reset.final := ⟨rfl, rfl⟩

/-- A busy machine with an access and hidden progress on its agenda before the commit, and no reset. -/
theorem witness_AgendaThenCommitIsFinal :
    (({ good.issue 0x00040122#32 with agenda := [memRead 0x9C#8, .work, .commit] } : State).pending.map (·.word)) =
      some 0x00040122#32 ∧
    ∀ p, Event.host p ∈ [memRead 0x9C#8, .work, .commit] → p.rst = false := by
  refine ⟨by decide, fun p hp => ?_⟩
  simp only [memRead, List.mem_cons, Event.host.injEq, reduceCtorEq, List.not_mem_nil, or_false] at hp
  subst hp
  rfl

theorem inv_good : good.Inv :=
  ⟨fun _ h => absurd h (by simp [show good.pending = none from rfl]), fun _ h => absurd h (by simp [show good.pending = none from rfl]),
    fun _ _ h => absurd h (by simp [show good.pending = none from rfl]), by decide, by decide⟩

theorem inv_climbing : climbing.Inv := by
  refine ⟨by decide, by decide, ?_, by decide, by decide⟩
  intro p g hp hg
  have hp' : climbing.pending = some (climbing.pending.get (by decide)) := by decide
  rw [hp'] at hp
  cases hp
  have hg' : (climbing.pending.get (by decide)).ladder = some (climbing.working.get (by decide)) := by decide
  rw [hg'] at hg
  cases hg
  exact ⟨1, 0, 4, by decide, by decide, by decide, by decide, by decide⟩

theorem witness_StepKeepsInv : climbing.Inv ∧ ∃ t, step climbing = .next t := by
  refine ⟨inv_climbing, ?_⟩
  obtain ⟨t, h⟩ := exec_next (.pladder 1 0 4) climbing.advance
  refine ⟨t, (step_commit climbing (.inl (by decide))).trans (Eq.trans ?_ h)⟩
  rcases engineCommit_cases climbing.advance with ⟨hp, _⟩ | ⟨p, i, hp, hd, he⟩ | ⟨p, hp, hd, _⟩
  · exact absurd hp (by decide)
  · have hw : p.word = 0x00040122#32 := by
      have : climbing.advance.pending.map (·.word) = some 0x00040122#32 := by decide
      rw [hp] at this
      exact Option.some.inj this
    rw [hw] at hd
    have hi : decode 0x00040122#32 = some (.pladder 1 0 4) := by decide
    rw [hi] at hd
    cases hd
    exact he
  · have hw : p.word = 0x00040122#32 := by
      have : climbing.advance.pending.map (·.word) = some 0x00040122#32 := by decide
      rw [hp] at this
      exact Option.some.inj this
    rw [hw] at hd
    exact absurd hd (by decide)

theorem witness_RunningCommandIsUndisturbed_write : climbing.busy = true ∧
    runEvent (memWrite 0x00#8 5#32) climbing = .next climbing.drop := ⟨by decide, rfl⟩

theorem witness_RunningCommandIsUndisturbed_work : climbing.busy = true ∧
    runEvent .work climbing = .next climbing.work := ⟨by decide, rfl⟩

theorem witness_LadderRegisterHoldsPrefixMultiple : 0 < 2305843009213693950 ∧
    ((LadderRegs.step 5 curveA24)^[1] (LadderRegs.start ⟨fe 9, fe 1⟩ 5 curveA24)).todo = 1 := by decide

theorem witness_LadderIterationCountIsExact : 0 < Config.p - 1 ∧ Config.p - 1 < Config.p := by decide

theorem witness_OperandCheckIsBelowP : largest.hi.toNat < 2147483648 ∧ largest.lo.toNat < 2147483648 ∧
    Config.pfe.hi.toNat < 2147483648 ∧ Config.pfe.lo.toNat < 2147483648 := by decide

theorem witness_RawCompareIsLexicographic : (raw 0 2147483647).lo.toNat < 2147483648 ∧ (raw 1 0).lo.toNat < 2147483648 := by
  decide

theorem witness_LimbPrimitivesAreExact : 0 < 2 ^ 31 ∧ 2147483647 < 2 ^ 31 ∧ 0 < 2147483647 := by decide

theorem witness_AddCoreIsModularSum : largest.hi.toNat < 2 ^ 31 ∧ largest.lo.toNat < 2 ^ 31 ∧
    val largest + val largest < 2 * Config.p := by decide

theorem witness_NegCoreIsPMinus : Canonical (fe 0) ∧ val (fe 0) = 0 ∧ Canonical largest :=
  ⟨canonical_zero, by decide, canonical_largest⟩

theorem witness_KaratsubaMultiplierIsModularProduct : Canonical largest ∧ Canonical largest :=
  ⟨canonical_largest, canonical_largest⟩

theorem witness_DatapathWidths : Canonical largest ∧ Canonical (fe 0) := ⟨canonical_largest, canonical_zero⟩

theorem witness_FieldLaws : Canonical largest ∧ Canonical (fe 0) ∧ Canonical (fe 1) ∧ 18446744073709551615 < 2 ^ 64 :=
  ⟨canonical_largest, canonical_zero, canonical_one, by decide⟩

theorem witness_DoublingFormulaInField : CanonicalPoint ⟨largest, fe 0⟩ ∧ Canonical largest ∧ Canonical (fe 0) :=
  ⟨⟨canonical_largest, canonical_zero⟩, canonical_largest, canonical_zero⟩

theorem witness_DifferentialAdditionFormulaInField : CanonicalPoint ⟨largest, fe 1⟩ ∧ CanonicalPoint ⟨fe 1, largest⟩ ∧
    CanonicalPoint ⟨fe 0, fe 0⟩ :=
  ⟨⟨canonical_largest, canonical_one⟩, ⟨canonical_one, canonical_largest⟩, ⟨canonical_zero, canonical_zero⟩⟩

/-- The largest limb in F0, 0 in F1. -/
def limbs : State := machine [raw 0x80000000 0x7FFFFFFF, raw 0 0] curveA24

theorem witness_LaddLaddcComplete : (limbs.limbOperand 0).toNat < 2 ^ 31 ∧ (limbs.limbOperand 1).toNat < 2 ^ 31 := by decide

theorem witness_LsubLsubbComplete : (limbs.limbOperand 1).toNat < 2 ^ 31 ∧ (limbs.limbOperand 0).toNat < 2 ^ 31 ∧
    (limbs.limbOperand 1).toNat < (limbs.limbOperand 0).toNat := by decide

theorem witness_LimbCommandsCheckBit31 :
    Instr.lsubb 2 0 1 ∈ [.ladd 2 0 1, .laddc 2 0 1, .lsub 2 0 1, .lsubb 2 0 1] ∧
    (badLimbs.limbOperand 0).getLsbD 31 = true ∧ (badLimbs.limbOperand 1).getLsbD 31 = true ∧
    (limbs.limbOperand 0).getLsbD 31 = false ∧ (limbs.limbOperand 1).getLsbD 31 = false := by decide

theorem witness_FcmpCompletes : Canonical (good.feOperand 0) ∧ Canonical (good.feOperand 1) ∧
    val (good.feOperand 1) < val (good.feOperand 0) := ⟨canonical_good 0, canonical_good 1, by decide⟩

theorem witness_FvalCompletes : Canonical (good.feOperand 0) ∧ ¬ Canonical (bad.feOperand 0) :=
  ⟨canonical_good 0, not_canonical_bad 0⟩

theorem witness_FaddCompletes : Canonical (good.feOperand 0) ∧ Canonical (good.feOperand 1) :=
  ⟨canonical_good 0, canonical_good 1⟩

theorem witness_FsubCompletes : Canonical (good.feOperand 3) ∧ Canonical (good.feOperand 0) :=
  ⟨canonical_good 3, canonical_good 0⟩

theorem witness_FmulCompletes : Canonical (good.feOperand 0) ∧ Canonical (good.feOperand 0) :=
  ⟨canonical_good 0, canonical_good 0⟩

theorem witness_FtointCompletes : Canonical (good.feOperand 0) := canonical_good 0

theorem witness_FieldOperandChecks_valid : Canonical (good.feOperand 0) ∧ Canonical (good.feOperand 1) ∧
    CanonicalPoint (good.pointOperand 0) ∧ CanonicalPoint (good.pointOperand 1) ∧ CanonicalPoint (good.pointOperand 2) ∧
    Canonical good.a24Operand ∧ good.a24Written = true :=
  ⟨canonical_good 0, canonical_good 1, canonicalPoint_good 0, canonicalPoint_good 1, canonicalPoint_good 2, canonical_good_a24,
    rfl⟩

theorem witness_FieldOperandChecks_invalid : ¬ Canonical (bad.feOperand 0) ∧ ¬ Canonical (bad.feOperand 1) ∧
    ¬ CanonicalPoint (bad.pointOperand 0) ∧ ¬ CanonicalPoint (bad.pointOperand 1) ∧ ¬ CanonicalPoint (bad.pointOperand 2) ∧
    ¬ Canonical bad.a24Operand :=
  ⟨not_canonical_bad 0, not_canonical_bad 1, fun h => not_canonical_bad _ h.1, fun h => not_canonical_bad _ h.1,
    fun h => not_canonical_bad _ h.1, not_canonical_bad_a24⟩

theorem witness_PdblCompletes : CanonicalPoint (good.pointOperand 0) ∧ Canonical good.a24Operand ∧ good.a24Written = true :=
  ⟨canonicalPoint_good 0, canonical_good_a24, rfl⟩

/-- A24 never written beside a valid point, a cycle of reset, and a write of either word of A24 of an idle machine. -/
theorem witness_PdblNeedsWrittenA24 :
    (loadF [fe 9, fe 1] 0 State.reset).operands.a24.hi.written = false ∧
    (loadF [fe 9, fe 1] 0 State.reset).operands.a24.lo.written = false ∧
    (⟨true, false, false, 0#8, 0#32⟩ : PortIn).rst = true ∧ State.reset.busy = false ∧
    windowReg 0x88#8 = .data (.a24 .lo) ∧ windowReg 0x8C#8 = .data (.a24 .hi) := by decide

theorem witness_PaddCompletes : CanonicalPoint (good.pointOperand 0) ∧ CanonicalPoint (good.pointOperand 1) ∧
    CanonicalPoint (good.pointOperand 2) := ⟨canonicalPoint_good 0, canonicalPoint_good 1, canonicalPoint_good 2⟩

theorem climbing_operands : climbing.operands = good.data := by decide

theorem witness_PladderCompletes_idle : good.Inv ∧ good.pending = none ∧ CanonicalPoint (good.pointOperand 0) ∧
    Canonical (good.feOperand 4) ∧ Canonical good.a24Operand :=
  ⟨inv_good, rfl, canonicalPoint_good 0, canonical_good 4, canonical_good_a24⟩

theorem witness_PladderCompletes_running : climbing.Inv ∧
    climbing.pending.map (fun p => (p.ladder.isSome, decode p.word)) = some (true, some (.pladder 1 0 4)) ∧
    CanonicalPoint (climbing.pointOperand 0) ∧ Canonical (climbing.feOperand 4) ∧ Canonical climbing.a24Operand := by
  refine ⟨inv_climbing, by decide, ?_, ?_, ?_⟩
  · simp only [State.pointOperand, State.feOperand, climbing_operands]
    exact canonicalPoint_good 0
  · simp only [State.feOperand, climbing_operands]
    exact canonical_good 4
  · simp only [State.a24Operand, climbing_operands]
    exact canonical_good_a24

theorem witness_ZeroScalarIsNoError : CanonicalPoint (good.pointOperand 0) ∧ Canonical (good.feOperand 3) ∧
    Canonical good.a24Operand ∧ val (good.feOperand 3) = 0 :=
  ⟨canonicalPoint_good 0, canonical_good 3, canonical_good_a24, by decide⟩

/-- A commit with DEGEN = 1. -/
theorem witness_CommitUpdatesStatus : ∃ t, exec (.pladder 1 0 3) good = .next t ∧ t.status.degen = true :=
  ⟨(good.writePoint 1 ladderZero).commit .ok true, rfl, rfl⟩

theorem witness_ErrorWritesOnlyStatus : ∃ t, exec (.fadd 2 0 1) bad = .next t ∧ t.status.code ≠ .ok ∧
    windowReg 0x10#8 ≠ .status :=
  ⟨bad.commit .outOfRangeFieldElement false, rfl, by decide, by decide⟩

theorem witness_CommandsChangeOnlyDestinations : (∃ t, exec (.fval 0) good = .next t) ∧
    windowReg 0x00#8 ∉ destinations (.fval 0) ∧ windowReg 0x00#8 ≠ .status := ⟨exec_next _ _, by decide, by decide⟩

theorem witness_EngineWritesValidElements : climbing.Inv ∧ (∃ t, step climbing = .next t) ∧ climbing.commitNext ∧
    ∀ p, ¬ climbing.hostNext p :=
  ⟨inv_climbing, witness_StepKeepsInv.2, .inl (by decide), fun p h => by
    have : climbing.agenda.head? = none := by decide
    rw [State.hostNext, this] at h
    cases h⟩

/-- Two machines that differ in the unwritten words of F15, IR and A24. -/
def otherUnwritten : State :=
  { loadF [fe 3, fe 4] 0 State.reset with
    data := { ((loadF [fe 3, fe 4] 0 State.reset).data.setF 15 ⟨⟨7#32, false⟩, ⟨8#32, false⟩⟩) with
      ir := ⟨⟨5#32, false⟩, ⟨6#32, false⟩⟩, a24 := ⟨⟨9#32, false⟩, ⟨9#32, false⟩⟩ } }

theorem witness_UnwrittenWordsDoNotLeak : (loadF [fe 3, fe 4] 0 State.reset).Agree otherUnwritten ∧
    (loadF [fe 3, fe 4] 0 State.reset).operandsWritten (.fadd 2 0 1) ∧ loadF [fe 3, fe 4] 0 State.reset ≠ otherUnwritten := by
  have h : (loadF [fe 3, fe 4] 0 State.reset).data.Agree otherUnwritten.data := by
    intro d
    unfold RegWord.Agree
    cases d with
    | f i hf => cases hf <;> revert i <;> decide
    | ir hf => cases hf <;> decide
    | a24 hf => cases hf <;> decide
  refine ⟨⟨h, by unfold RegWord.Agree; decide, rfl, rfl, rfl, rfl, h, rfl, rfl, rfl⟩, ?_, by decide⟩
  intro d hd
  simp only [operandWords, fWords, List.cons_append, List.nil_append, List.mem_cons, List.not_mem_nil, or_false] at hd
  rcases hd with rfl | rfl | rfl | rfl <;> decide

theorem witness_WindowMap : 0xA0 ≤ 0xFC ∧ windowReg (BitVec.ofNat 8 0xA0) = .reserved ∧
    windowReg (BitVec.ofNat 8 0xFC) = .reserved ∧ 7 < 8 := by decide

theorem witness_ReservedOffsets : (0x94#8).toNat / 4 = 0x94 / 4 ∧ (0x97#8).toNat / 4 = 0x94 / 4 ∧ 0xA0 ≤ (0xA0#8).toNat ∧
    0xA0 ≤ (0xFF#8).toNat := by decide

theorem witness_ReadsAndIdleWrites_read : (PortIn.read 0x9C#8).rst = false ∧ (PortIn.read 0x9C#8).req = true ∧
    (PortIn.read 0x9C#8).we = false := by decide

theorem witness_ReadsAndIdleWrites_write : good.busy = false ∧ windowReg 0x7C#8 = .data (.f 15 .hi) ∧
    windowReg 0x80#8 ≠ .data (.f 15 .hi) ∧ DataWord.ir .lo ≠ DataWord.f 15 .hi := by decide

theorem witness_BusyWritesAreDropped : climbing.busy = true ∧ windowReg 0x98#8 = .cmd ∧
    windowReg 0x8C#8 = .data (.a24 .hi) ∧ windowReg 0x9C#8 = .status ∧ windowReg 0x90#8 = .result ∧
    windowReg 0x94#8 = .reserved := by decide

theorem witness_ReadOnlyAndWriteOneToClear : 31 < 32 ∧ 8 < 32 ∧ 9 < 32 := by decide

theorem witness_CmdWriteIssues : good.busy = false ∧ climbing.busy = true := by decide

/-- The machine with one host access on its agenda. -/
def withAccess (s : State) (p : PortIn) : State := { s with agenda := [.host p] }

theorem step_withAccess (s : State) (p : PortIn) : step (withAccess s p) = .next ((withAccess s p).advance.portCycle p) :=
  step_host _ p [] rfl

theorem witness_CmdBusyA24ChangeOnlyBy_issue :
    ∃ t, step (withAccess good (PortIn.write 0x98#8 5#32)) = .next t ∧ t.cmd ≠ good.cmd ∧ good.busy = false ∧ t.busy = true :=
  ⟨_, step_withAccess _ _, by decide, by decide, by decide⟩

theorem witness_CmdBusyA24ChangeOnlyBy_commit : (running 0#32).busy = true ∧
    ∃ t, step (running 0#32) = .next t ∧ t.busy = false := by
  refine ⟨by decide, (running 0#32).advance.commit .illegalCommand false, ?_, by decide⟩
  rw [step_commit (running 0#32) (.inr (by decide))]
  rfl

theorem witness_CmdBusyA24ChangeOnlyBy_a24 :
    ∃ t, step (withAccess good (PortIn.write 0x8C#8 5#32)) = .next t ∧ t.data.a24 ≠ good.data.a24 :=
  ⟨_, step_withAccess _ _, by decide⟩

/-- ERR and OVR set. -/
def sticky : State := { good with status := ⟨false, .ok, true, true⟩ }

theorem witness_StickyBitsClearedOnlyBy : sticky.status.err = true ∧ sticky.status.ovr = true ∧
    ∃ t, step (withAccess sticky (PortIn.write 0x9C#8 0x300#32)) = .next t ∧ t.status.err = false ∧ t.status.ovr = false :=
  ⟨rfl, rfl, _, step_withAccess _ _, by decide, by decide⟩

theorem witness_ResetCycle : (⟨true, true, false, 0x9C#8, 0#32⟩ : PortIn).rst = true ∧
    (⟨true, true, true, 0x98#8, 5#32⟩ : PortIn).rst = true ∧ climbing ≠ good := by decide

theorem witness_PseudoCommands : Canonical (good.feOperand 0) ∧ good.feOperand 3 = ⟨0#32, 0#32⟩ ∧
    good.feOperand 1 = ⟨0#32, 1#32⟩ := ⟨canonical_good 0, by decide, by decide⟩

theorem witness_LoadSequencesLoad : good.busy = false ∧ 2 ^ 62 - 1 < 2 ^ 62 ∧ 2 ^ 64 - 1 < 2 ^ 64 ∧
    ({ good with agenda := ldf 15 (2 ^ 62 - 1) ++ [] } : State).agenda = ldf 15 (2 ^ 62 - 1) ++ [] ∧
    ({ good with agenda := ldir (2 ^ 64 - 1) ++ [.work] } : State).agenda = ldir (2 ^ 64 - 1) ++ [.work] ∧
    ({ good with agenda := lda24 (2 ^ 62 - 1) ++ [] } : State).agenda = lda24 (2 ^ 62 - 1) ++ [] :=
  ⟨by decide, by decide, by decide, rfl, rfl, rfl⟩

theorem witness_IssueWaitRunsCommand : good.busy = false ∧ decode 0x00040122#32 = some (.pladder 1 0 4) ∧
    ({ good with agenda := issueWord 0x00040122#32 ++ waitDone 2 ++ [] } : State).agenda =
      issueWord 0x00040122#32 ++ waitDone 2 ++ [] := ⟨by decide, by decide, rfl⟩

end Sys2Proof.Tests
end

section
/-! PROOFS. The engine's commit and the placing of a command word, and the statement that a step runs the decoded command. -/

namespace Sys2Proof.Proofs

open Sys2Proof.Machine Sys2Proof.Laws

/-! ### The commit of a word of the opcode table -/

/-- A pending word of the opcode table commits as its command (00_scope R17). -/
theorem engineCommit_of_decode {s : State} {p : Pending} {i : Instr} (hp : s.pending = some p)
    (hi : decode p.word = some i) : engineCommit s = exec i s := by
  simp only [engineCommit, hp, hi]

/-! ### A word of the opcode table placed for the next step -/

/-- Only a bit count that a command word holds decodes, and then as the word itself does (30_encoding R80). -/
theorem decodeTableWord_eq_some_iff {nbits w : Nat} {i : Instr} :
    decodeTableWord nbits w = some i ↔ nbits ≤ 32 ∧ decode (tableWord nbits w) = some i := by
  simp [decodeTableWord]

/-- A placed word has its commit next. -/
theorem withFetchWord_commitNext (s : State) (nbits w : Nat) : (s.withFetchWord nbits w).commitNext := .inr rfl

/-- Taking the commit off again leaves the issue of the word, with the port silent. -/
theorem withFetchWord_advance (s : State) (nbits w : Nat) :
    (s.withFetchWord nbits w).advance = { s.issue (tableWord nbits w) with rdata := none } := rfl

/-! ### The statement -/

/-- A commit that is the next event runs the pending command, on the state with that event taken off. -/
theorem step_of_commitNext_of_decode {s : State} {p : Pending} {i : Instr} (hc : s.commitNext)
    (hp : s.pending = some p) (hi : decode p.word = some i) : step s = exec i s.advance := by
  rw [step_commit s hc]
  exact engineCommit_of_decode (by rwa [advance_pending]) hi

/-- Settles O6: a step at the commit is the engine's commit, which is `exec` of the decoded word; a placed word is the
case where the pending command is the issue of that word. -/
theorem stepRunsDecodedCommand : Obligations.StepRunsDecodedCommand := by
  refine ⟨fun s p i hp hi hc => step_of_commitNext_of_decode hc hp hi, fun s nbits w i h => ?_⟩
  obtain ⟨-, hi⟩ := decodeTableWord_eq_some_iff.mp h
  rw [← withFetchWord_advance]
  exact step_of_commitNext_of_decode (withFetchWord_commitNext s nbits w) rfl hi

end Sys2Proof.Proofs
end

section
/-! PROOFS. What one event of the machine can do, said once: the engine's commit, hidden progress, a host write, a cycle of the
port, and the step that takes the next event. -/

namespace Sys2Proof.Proofs

open Sys2Proof.Machine Sys2Proof.Laws

/-! ### The engine's commit -/

/-- What every commit of a command keeps and sets (10_state R38, R41, R42, R45): the operand registers a command can name are
left out, since they differ from command to command. -/
structure AnyCommit (s t : State) : Prop where
  pending : t.pending = none
  cmd : t.cmd = s.cmd
  a24 : t.data.a24 = s.data.a24
  err : t.status.err = (s.status.err || !(t.status.code == .ok))
  ovr : t.status.ovr = s.status.ovr
  degen : t.status.degen = true → t.status.code = .ok
  result : t.result = s.result ∨ t.result.val.toNat ≤ 2

/-- A commit with any code, after a write of the engine that keeps CMD, STATUS and A24. -/
theorem anyCommit_commit {s w : State} (c : CompletionCode) (z : Bool) (hcmd : w.cmd = s.cmd)
    (ha24 : w.data.a24 = s.data.a24) (hstatus : w.status = s.status)
    (hresult : w.result = s.result ∨ w.result.val.toNat ≤ 2) : AnyCommit s (w.commit c z) where
  pending := rfl
  cmd := hcmd
  a24 := ha24
  err := by simp [hstatus]
  ovr := by simp [hstatus]
  degen := by simp
  result := hresult

/-- Every command ends in a commit. -/
theorem exec_anyCommit {i : Instr} {s t : State} (h : exec i s = .next t) : AnyCommit s t := by
  rcases exec_shape i s with ⟨c, -, he⟩ | ⟨rd, p, -, he⟩ | ⟨rd, p, -, -, he⟩ | ⟨rd, rs1, rs2, -, -, he⟩ | ⟨w, hw, -, he⟩ |
    ⟨rs1, n, -, he⟩ <;> obtain rfl := Host.Outcome.next.inj (h.symm.trans he)
  · exact anyCommit_commit c false rfl rfl rfl (.inl rfl)
  · exact anyCommit_commit .ok false rfl rfl rfl (.inl rfl)
  · exact anyCommit_commit .ok false rfl rfl rfl (.inl rfl)
  · exact anyCommit_commit .ok true rfl rfl rfl (.inl rfl)
  · exact anyCommit_commit .ok false rfl rfl rfl (.inr hw)
  · exact anyCommit_commit .ok false rfl rfl rfl (.inl rfl)

/-- The engine's commit: an idle engine changes nothing, a running one commits. -/
theorem engineCommit_idle_or_anyCommit {s t : State} (h : engineCommit s = .next t) : t = s ∨ AnyCommit s t := by
  rcases engineCommit_cases s with ⟨-, he⟩ | ⟨p, i, -, -, he⟩ | ⟨p, -, -, he⟩ <;> rw [he] at h
  · exact .inl (Host.Outcome.next.inj h).symm
  · exact .inr (exec_anyCommit h)
  · obtain rfl := Host.Outcome.next.inj h
    exact .inr (anyCommit_commit .illegalCommand false rfl rfl rfl (.inl rfl))

/-! ### Hidden progress -/

/-- Hidden progress touches the running command only. -/
theorem work_eq_update (s : State) : ∃ q, s.work = { s with pending := q } := by
  rcases work_cases s with h | ⟨p, rd, rs1, rs2, -, -, -, h⟩
  · exact ⟨s.pending, h⟩
  · exact ⟨_, h⟩

@[simp] theorem work_data (s : State) : s.work.data = s.data := by obtain ⟨q, h⟩ := work_eq_update s; rw [h]
@[simp] theorem work_result (s : State) : s.work.result = s.result := by obtain ⟨q, h⟩ := work_eq_update s; rw [h]
@[simp] theorem work_cmd (s : State) : s.work.cmd = s.cmd := by obtain ⟨q, h⟩ := work_eq_update s; rw [h]
@[simp] theorem work_status (s : State) : s.work.status = s.status := by obtain ⟨q, h⟩ := work_eq_update s; rw [h]

/-- Hidden progress keeps the issue snapshot. -/
@[simp] theorem work_operands (s : State) : s.work.operands = s.operands := by
  rcases work_cases s with h | ⟨p, rd, rs1, rs2, hp, -, -, h⟩ <;> rw [h]
  simp only [State.operands, hp]

/-- Hidden progress keeps the latched command word. -/
@[simp] theorem work_pending_word (s : State) : s.work.pending.map (·.word) = s.pending.map (·.word) := by
  rcases work_cases s with h | ⟨p, rd, rs1, rs2, hp, -, -, h⟩ <;> rw [h]
  simp only [hp, Option.map_some]

@[simp] theorem work_busy (s : State) : s.work.busy = s.busy := by
  have h := congrArg Option.isSome (work_pending_word s)
  rwa [Option.isSome_map, Option.isSome_map] at h

/-! ### Events and steps -/

/-- What an event can do to a state, with the conditions under which it does so. A host write while busy either is dropped, or
reaches STATUS, or is ignored (20_memory R67 to R70); what is ignored, a read and a cycle with no access are `quiet`. -/
inductive EventEffect (s : State) : Event → State → Prop where
  | quiet (e : Event) (r : Option Word) : EventEffect s e { s with rdata := r }
  | commit {t : State} (h : AnyCommit s t) : EventEffect s .commit t
  | work : EventEffect s .work s.work
  | reset (p : PortIn) (hrst : p.rst = true) : EventEffect s (.host p) (s.resetEdge p)
  | store (p : PortIn) (d : DataWord) (hw : p.writes (.data d)) (hidle : s.busy = false) :
      EventEffect s (.host p) { s with data := s.data.setWord d p.wdata }
  | issue (p : PortIn) (hw : p.writes .cmd) (hidle : s.busy = false) : EventEffect s (.host p) (s.issue p.wdata)
  | drop (p : PortIn) (hbusy : s.busy = true) : EventEffect s (.host p) s.drop
  | clear (p : PortIn) (hw : p.writes .status) :
      EventEffect s (.host p) { s with status := s.status.atHostWrite p.wdata }

/-- What a host write can do, by the register it reaches. -/
theorem writeReg_effect (s : State) (p : PortIn) (r : WindowReg) (hw : p.writes r) :
    EventEffect s (.host p) (s.writeReg r p.wdata) := by
  cases r with
  | data d =>
    cases hb : s.busy
    · rw [writeReg_idle_data s d _ hb]
      exact .store p d hw hb
    · rw [writeReg_busy_data s d _ hb]
      exact .drop p hb
  | cmd =>
    cases hb : s.busy
    · rw [writeReg_idle_cmd s _ hb]
      exact .issue p hw hb
    · rw [writeReg_busy_cmd s _ hb]
      exact .drop p hb
  | status => exact .clear p hw
  | result => exact .quiet _ s.rdata
  | reserved => exact .quiet _ s.rdata

/-- What a cycle of the port can do. -/
theorem portCycle_effect (s : State) (p : PortIn) : EventEffect s (.host p) (s.portCycle p) := by
  rcases portCycle_cases s p with ⟨hrst, h⟩ | ⟨hrst, hreq, hwe, h⟩ | ⟨-, -, -, h⟩ | ⟨-, -, h⟩ <;> rw [h]
  · exact .reset p hrst
  · exact writeReg_effect s p _ ⟨hrst, hreq, hwe, rfl⟩
  · exact .quiet _ _
  · exact .quiet _ s.rdata

/-- Every event has one of the effects. -/
theorem runEvent_effect {e : Event} {s t : State} (h : runEvent e s = .next t) : EventEffect s e t := by
  cases e with
  | host p =>
    obtain rfl := Host.Outcome.next.inj h
    exact portCycle_effect s p
  | work =>
    obtain rfl := Host.Outcome.next.inj h
    exact .work
  | commit =>
    rcases engineCommit_idle_or_anyCommit h with rfl | hc
    · exact .quiet _ t.rdata
    · exact .commit hc

/-- `e` is the event the next step takes; an empty agenda stands for the engine's commit (log entry 5). -/
def NextEvent (s : State) : Event → Prop
  | .commit => s.commitNext
  | e => s.agenda.head? = some e

/-- A step is the effect of the next event on the state with that event taken off. -/
theorem step_effect {s t : State} (h : step s = .next t) : ∃ e, NextEvent s e ∧ EventEffect s.advance e t := by
  rcases step_cases h with ⟨hn, ho⟩ | ⟨hn, ho⟩ | ⟨p, hn, ho⟩
  · exact ⟨.commit, hn, runEvent_effect ho.symm⟩
  · exact ⟨.work, hn, runEvent_effect ho.symm⟩
  · exact ⟨.host p, hn, runEvent_effect ho.symm⟩

@[simp] theorem advance_busy (s : State) : s.advance.busy = s.busy := rfl

end Sys2Proof.Proofs
end

section
/-! PROOFS. What alone changes CMD, BUSY, A24 and the sticky bits, and that nothing else disturbs a running command. -/

namespace Sys2Proof.Proofs

open Sys2Proof.Machine Sys2Proof.Laws

/-- Only a write to a word of A24 changes A24. -/
theorem a24Word_of_setWord_a24_ne {b : Bank} {d : DataWord} {w : Word} (h : (b.setWord d w).a24 ≠ b.a24) :
    ∃ hf, d = .a24 hf := by
  cases d with
  | f i hf => exact absurd rfl h
  | ir hf => exact absurd rfl h
  | a24 hf => exact ⟨hf, rfl⟩

/-! ### The statements on a running command and on a step -/

/-- Settles O12: the effects left to an event that is neither commit nor reset on a busy machine are hidden progress, a dropped
write, a STATUS write and a quiet cycle. -/
theorem runningCommandIsUndisturbed : Obligations.RunningCommandIsUndisturbed := by
  intro s t e hbusy hcommit hreset h
  cases runEvent_effect h with
  | commit _ => exact absurd rfl hcommit
  | reset p hrst => exact absurd hrst (by simp [hreset p rfl])
  | store _ _ _ hidle | issue _ _ hidle => exact absurd hbusy (by simp [hidle])
  | work => simp
  | quiet _ _ | drop _ _ | clear _ _ => exact ⟨rfl, rfl, rfl, rfl, rfl, rfl, rfl⟩

/-- CMD changes at a reset or at an accepted CMD write, which it then holds (10_state R39). -/
theorem cmd_changes_only_by {s t : State} (h : step s = .next t) (hne : t.cmd ≠ s.cmd) :
    ∃ p, s.hostNext p ∧ (p.rst = true ∨ (p.writes .cmd ∧ s.busy = false ∧ t.cmd = p.wdata)) := by
  obtain ⟨e, hn, he⟩ := step_effect h
  cases he with
  | reset p hrst => exact ⟨p, hn, .inl hrst⟩
  | issue p hw hidle => exact ⟨p, hn, .inr ⟨hw, hidle, rfl⟩⟩
  | commit hc => exact absurd hc.cmd hne
  | work => exact absurd (work_cmd _) hne
  | quiet | store | drop | clear => exact absurd rfl hne

/-- BUSY rises at an accepted CMD write only (10_state R39, R45). -/
theorem busy_rises_only_by {s t : State} (h : step s = .next t) (hs : s.busy = false) (ht : t.busy = true) :
    ∃ p, s.hostNext p ∧ p.writes .cmd ∧ t.cmd = p.wdata := by
  obtain ⟨e, hn, he⟩ := step_effect h
  cases he with
  | issue p hw _ => exact ⟨p, hn, hw, rfl⟩
  | commit hc => exact absurd ht (by simp [State.busy, hc.pending])
  | reset => exact absurd ht Bool.false_ne_true
  | work => exact absurd ht (by simp [hs])
  | quiet | store | drop | clear => exact absurd (hs.symm.trans ht) Bool.false_ne_true

/-- BUSY falls at a commit or a reset only (10_state R45, 70 R231). -/
theorem busy_falls_only_by {s t : State} (h : step s = .next t) (hs : s.busy = true) (ht : t.busy = false) :
    s.commitNext ∨ ∃ p, s.hostNext p ∧ p.rst = true := by
  obtain ⟨e, hn, he⟩ := step_effect h
  cases he with
  | commit => exact .inl hn
  | reset p hrst => exact .inr ⟨p, hn, hrst⟩
  | work => exact absurd hs (by simpa using ht)
  | issue _ _ hidle => exact absurd hs (by simpa using hidle)
  | quiet | store | drop | clear => exact absurd (ht.symm.trans hs) Bool.false_ne_true

/-- A24 changes at a reset or at an accepted host write of one of its words; the engine never writes it (10_state R38). -/
theorem a24_changes_only_by {s t : State} (h : step s = .next t) (hne : t.data.a24 ≠ s.data.a24) :
    ∃ p, s.hostNext p ∧ (p.rst = true ∨ (s.busy = false ∧ ∃ hf, p.writes (.data (.a24 hf)))) := by
  obtain ⟨e, hn, he⟩ := step_effect h
  cases he with
  | reset p hrst => exact ⟨p, hn, .inl hrst⟩
  | store p d hw hidle =>
    obtain ⟨hf, rfl⟩ := a24Word_of_setWord_a24_ne hne
    exact ⟨p, hn, .inr ⟨hidle, hf, hw⟩⟩
  | commit hc => exact absurd hc.a24 hne
  | work => exact absurd (by simp) hne
  | quiet | issue | drop | clear => exact absurd rfl hne

/-- Settles O54: the four changes, each read off the effects of the next event. -/
theorem cmdBusyA24ChangeOnlyBy : Obligations.CmdBusyA24ChangeOnlyBy := fun _ _ h =>
  ⟨cmd_changes_only_by h, busy_rises_only_by h, busy_falls_only_by h, a24_changes_only_by h⟩

/-- ERR falls at a reset or at a STATUS write with bit 8 set only. -/
theorem err_falls_only_by {s t : State} (h : step s = .next t) (hs : s.status.err = true) (ht : t.status.err = false) :
    ∃ p, s.hostNext p ∧ (p.rst = true ∨ (p.writes .status ∧ p.wdata.getLsbD 8 = true)) := by
  obtain ⟨e, hn, he⟩ := step_effect h
  cases he with
  | reset p hrst => exact ⟨p, hn, .inl hrst⟩
  | clear p hw => exact ⟨p, hn, .inr ⟨hw, by simpa [hs] using ht⟩⟩
  | commit hc => exact absurd ht (by simp [hc.err, hs])
  | work => exact absurd ht (by simp [hs])
  | quiet | store | issue | drop => exact absurd (ht.symm.trans hs) Bool.false_ne_true

/-- OVR falls at a reset or at a STATUS write with bit 9 set only. -/
theorem ovr_falls_only_by {s t : State} (h : step s = .next t) (hs : s.status.ovr = true) (ht : t.status.ovr = false) :
    ∃ p, s.hostNext p ∧ (p.rst = true ∨ (p.writes .status ∧ p.wdata.getLsbD 9 = true)) := by
  obtain ⟨e, hn, he⟩ := step_effect h
  cases he with
  | reset p hrst => exact ⟨p, hn, .inl hrst⟩
  | clear p hw => exact ⟨p, hn, .inr ⟨hw, by simpa [hs] using ht⟩⟩
  | commit hc => exact absurd ht (by simp [hc.ovr, hs])
  | work => exact absurd ht (by simp [hs])
  | drop => exact absurd ht (by simp)
  | quiet | store | issue => exact absurd (ht.symm.trans hs) Bool.false_ne_true

/-- Settles O55: a commit and a dropped write only raise the sticky bits. -/
theorem stickyBitsClearedOnlyBy : Obligations.StickyBitsClearedOnlyBy := fun _ _ h =>
  ⟨err_falls_only_by h, ovr_falls_only_by h⟩

end Sys2Proof.Proofs
end

section
/-! PROOFS. What the host sees: the reset state, the layout of STATUS, reads, idle writes and the CMD write. -/

namespace Sys2Proof.Proofs

open Sys2Proof.Machine Sys2Proof.Laws

/-! ### The reset state -/

@[simp] theorem reset_freg (i : Fin 16) : State.reset.data.freg i = ⟨RegWord.reset, RegWord.reset⟩ := by
  simp [State.reset, Bank.freg]

/-- Every word of the operand registers is unwritten at reset. -/
@[simp] theorem reset_word (d : DataWord) : State.reset.data.word d = RegWord.reset := by
  cases d with
  | f i h => cases h <;> simp [Bank.word, Reg.half]
  | ir h => cases h <;> rfl
  | a24 h => cases h <;> rfl

/-- A state with nothing pending meets the invariant where STATUS and RESULT do. -/
theorem inv_of_idle {s : State} (hp : s.pending = none) (hd : s.status.degen = true → s.status.code = .ok)
    (hr : s.result.written = true → s.result.val.toNat ≤ 2) : s.Inv where
  latched p h := by simp [hp] at h
  snapshot p h := by simp [hp] at h
  ladder p g h := by simp [hp] at h
  degen := hd
  result := hr

/-- Settles O10: the reset state is idle, and each of its data words is a word after reset. -/
theorem resetState : Obligations.ResetState :=
  ⟨by decide, by decide, rfl, fun d => by rw [reset_word]; rfl, rfl, inv_of_idle rfl (fun _ => rfl) (by decide)⟩

/-! ### STATUS -/

theorem windowReg_status : windowReg 0x9C#8 = .status := by decide
theorem windowReg_cmd : windowReg 0x98#8 = .cmd := by decide

/-- The fields of an assembled STATUS word (10_state R40): one of the 64 values of its five fields. -/
theorem statusWord_fields (busy degen err ovr : Bool) (code : CompletionCode) :
    let w := statusWord busy ⟨degen, code, err, ovr⟩
    w.getLsbD 0 = busy ∧ w.getLsbD 1 = degen ∧ (w.extractLsb' 2 2).toNat = 0 ∧ (w.extractLsb' 4 4).toNat = code.num ∧
      w.getLsbD 8 = err ∧ w.getLsbD 9 = ovr ∧ (w.extractLsb' 10 22).toNat = 0 := by
  cases code <;> revert busy degen err ovr <;> decide

theorem completionCode_num_le (c : CompletionCode) : c.num ≤ 3 := by cases c <;> decide

/-- Settles O49: a read of STATUS is the assembled word, and each of its fields reads back. -/
theorem statusLayout : Obligations.StatusLayout := by
  intro s
  rw [State.hostRead, windowReg_status]
  obtain ⟨h0, h1, h2, h4, h8, h9, h10⟩ :=
    statusWord_fields s.busy s.status.degen s.status.err s.status.ovr s.status.code
  exact ⟨h0, h1, h2, h4, h8, h9, h10, completionCode_num_le _, rfl⟩

/-! ### Reads and writes of the window -/

/-- A read of the port puts the register's current value there and changes nothing else (20_memory R61, R72). -/
theorem portCycle_read (s : State) (p : PortIn) (hrst : p.rst = false) (hreq : p.req = true) (hwe : p.we = false) :
    s.portCycle p = { s with rdata := some (s.hostRead p.addr) } := by
  simp [State.portCycle, hrst, hreq, hwe]

/-- An idle write to a word of a data register stores it. -/
theorem hostWrite_idle_data {s : State} {addr : BitVec 8} {d : DataWord} (v : Word) (hidle : s.busy = false)
    (ha : windowReg addr = .data d) : s.hostWrite addr v = { s with data := s.data.setWord d v } := by
  rw [State.hostWrite, ha, writeReg_idle_data s d v hidle]

/-- What a read of any register returns after a word of a data register was stored. -/
theorem readReg_setWord (s : State) (d : DataWord) (v : Word) (r : WindowReg) :
    ({ s with data := s.data.setWord d v } : State).readReg r = if r = .data d then v else s.readReg r := by
  cases r with
  | data d' =>
    simp only [State.readReg, word_setWord, WindowReg.data.injEq, eq_comm (a := d')]
    split <;> rfl
  | result | cmd | status | reserved => rfl

/-- Settles O50: an idle write is `Bank.setWord`, and a read sees exactly the word it stored. -/
theorem readsAndIdleWrites : Obligations.ReadsAndIdleWrites := by
  refine ⟨portCycle_read, fun s addr v d hidle ha => ?_⟩
  rw [hostWrite_idle_data v hidle ha]
  refine ⟨?_, fun other ho => ?_, ?_, fun d' hd => ?_, rfl⟩
  · rw [State.hostRead, ha, readReg_setWord, if_pos rfl]
  · rw [State.hostRead, readReg_setWord, if_neg ho, State.hostRead]
  · rw [word_setWord, if_pos rfl, put_written]
  · rw [word_setWord, if_neg (Ne.symm hd)]

/-- Settles O53: an idle CMD write is the issue, a busy one is dropped. -/
theorem cmdWriteIssues : Obligations.CmdWriteIssues := by
  intro s w
  simp only [State.hostWrite, State.hostRead, windowReg_cmd]
  refine ⟨fun hidle => ?_, fun hbusy => writeReg_busy_cmd s w hbusy⟩
  rw [writeReg_idle_cmd s w hidle]
  exact ⟨rfl, rfl, rfl, rfl, rfl⟩

end Sys2Proof.Proofs
end

section
/-! PROOFS. What every commit does to STATUS. -/

namespace Sys2Proof.Proofs

open Sys2Proof.Machine Sys2Proof.Laws

/-- `i` is a PLADDER whose scalar is 0. -/
def ZeroScalarLadder (i : Instr) (s : State) : Prop :=
  ∃ rd rs1 rs2, i = .pladder rd rs1 rs2 ∧ val (s.feOperand rs2) = 0

/-- A PLADDER writes the four words of a point register, so a command that writes anything else is none. -/
theorem not_zeroScalarLadder_of_destinations {i : Instr} (s : State) (h : (destinations i).length ≠ 4) :
    ¬ ZeroScalarLadder i s := by
  rintro ⟨rd, rs1, rs2, rfl, -⟩
  exact h rfl

/-- DEGEN after a command is 1 exactly where it is a PLADDER with scalar 0 that committed with code OK (10_state R41). -/
theorem exec_degen_iff {i : Instr} {s t : State} (h : exec i s = .next t) :
    t.status.degen = true ↔ t.status.code = .ok ∧ ZeroScalarLadder i s := by
  rcases exec_shape i s with ⟨c, hc, he⟩ | ⟨rd, p, hd, he⟩ | ⟨rd, p, -, hk, he⟩ | ⟨rd, rs1, rs2, hi, hk, he⟩ |
    ⟨w, -, hd, he⟩ | ⟨rs1, n, hi, he⟩ <;> obtain rfl := Host.Outcome.next.inj (h.symm.trans he)
  · simp [hc]
  · simp [not_zeroScalarLadder_of_destinations s (i := i) (by simp [hd, fWords])]
  · simp only [commit_status, atCommit_degen, atCommit_code, Bool.false_and, Bool.false_eq_true, true_and, false_iff]
    rintro ⟨a, b, k, hi, hz⟩
    exact hk a b k hi hz
  · simp only [commit_status, atCommit_degen, atCommit_code, beq_self_eq_true, Bool.and_self, true_and, true_iff]
    exact ⟨rd, rs1, rs2, hi, hk⟩
  · simp [not_zeroScalarLadder_of_destinations s (i := i) (by simp [hd])]
  · simp [not_zeroScalarLadder_of_destinations s (i := i) (by simp [hi, destinations])]

/-- Settles O42: the shared rule of a commit, and DEGEN by the shape of the command. -/
theorem commitUpdatesStatus : Obligations.CommitUpdatesStatus := by
  intro i s t h
  have hc := exec_anyCommit h
  refine ⟨by simp [State.busy, hc.pending], hc.pending, hc.err, hc.ovr, (exec_degen_iff h).trans ⟨?_, ?_⟩⟩
  · rintro ⟨hok, rd, rs1, rs2, hi, hz⟩
    exact ⟨rd, rs1, rs2, hi, hok, hz⟩
  · rintro ⟨rd, rs1, rs2, hi, hok, hz⟩
    exact ⟨hok, rd, rs1, rs2, hi, hz⟩

end Sys2Proof.Proofs
end

section
/-! PROOFS. The invariant: it depends on the command, its snapshot, its working registers, STATUS and RESULT only, and every
step keeps it. -/

namespace Sys2Proof.Proofs

open Sys2Proof.Machine Sys2Proof.Laws

/-! ### The working registers of the ladder -/

/-- `g` may be the working registers of a ladder on `d` with scalar `k`: it holds the base point, at most the bits below the
leading 1-bit are left, and what is left of the ladder ends where the whole ladder ends (43_ladder R180, R186). -/
def OnLadder (d : Point) (k : Nat) (a24 : Pair) (g : LadderRegs) : Prop :=
  g.d = d ∧ g.todo ≤ bitlen k - 1 ∧ g.finish k a24 = ladderLoop d k a24 (bitlen k - 1) (ladderInit d a24)

theorem onLadder_start (d : Point) (k : Nat) (a24 : Pair) : OnLadder d k a24 (LadderRegs.start d k a24) :=
  ⟨rfl, le_rfl, rfl⟩

@[simp] theorem ladderStep_d (k : Nat) (a24 : Pair) (g : LadderRegs) : (g.step k a24).d = g.d := by
  rcases g with ⟨d, r, s, _ | n⟩ <;> rfl

@[simp] theorem ladderStep_todo (k : Nat) (a24 : Pair) (g : LadderRegs) : (g.step k a24).todo = g.todo - 1 := by
  rcases g with ⟨d, r, s, _ | n⟩ <;> rfl

theorem onLadder_step {d : Point} {k : Nat} {a24 : Pair} {g : LadderRegs} (h : OnLadder d k a24 g) :
    OnLadder d k a24 (g.step k a24) := by
  obtain ⟨hd, htodo, hfinish⟩ := h
  refine ⟨?_, ?_, ?_⟩
  · rw [ladderStep_d, hd]
  · rw [ladderStep_todo]
    omega
  · rw [ladder_finish_step, hfinish]

/-- The clause of the invariant on working registers, for the PLADDER that is pending. -/
theorem ladderOk_iff {s : State} {p : Pending} {g : LadderRegs} {rd rs1 : Fin 8} {rs2 : Fin 16}
    (hd : decode p.word = some (.pladder rd rs1 rs2)) :
    s.LadderOk p g ↔ s.ladderRuns rs1 rs2 = true ∧
      OnLadder (s.pointOperand rs1) (val (s.feOperand rs2)) s.a24Operand g := by
  constructor
  · rintro ⟨rd', rs1', rs2', hd', hruns, hbase, htodo, hfinish⟩
    rw [hd] at hd'
    cases hd'
    exact ⟨hruns, hbase, htodo, hbase ▸ hfinish⟩
  · rintro ⟨hruns, hbase, htodo, hfinish⟩
    exact ⟨rd, rs1, rs2, hd, hruns, hbase, htodo, hbase ▸ hfinish⟩

/-- The clause on working registers reads the running command's word and the operands only. -/
theorem ladderOk_congr {s t : State} {p q : Pending} {g : LadderRegs} (ho : t.operands = s.operands)
    (hw : q.word = p.word) (h : s.LadderOk p g) : t.LadderOk q g := by
  simpa only [State.LadderOk, State.ladderRuns, State.ladderOperandsValid, State.pointOperand, State.feOperand,
    State.a24Operand, ho, hw] using h

/-! ### What the invariant depends on -/

/-- The operands of a state of the invariant are the registers (10_state R45). -/
theorem operands_eq_data {s : State} (h : s.Inv) : s.operands = s.data := by
  cases hp : s.pending with
  | none => simp only [State.operands, hp]
  | some p =>
    simp only [State.operands, hp]
    exact h.snapshot p hp

/-- The invariant does not read ERR, OVR, the port, the agenda and the free values. -/
theorem inv_congr {s t : State} (h : s.Inv) (hdata : t.data = s.data) (hresult : t.result = s.result) (hcmd : t.cmd = s.cmd)
    (hdegen : t.status.degen = s.status.degen) (hcode : t.status.code = s.status.code)
    (hpending : t.pending = s.pending) : t.Inv where
  latched p hp := hcmd ▸ h.latched p (hpending ▸ hp)
  snapshot p hp := hdata ▸ h.snapshot p (hpending ▸ hp)
  ladder p g hp hg := ladderOk_congr (by simp only [State.operands, hpending, hdata]) rfl (h.ladder p g (hpending ▸ hp) hg)
  degen := by rw [hdegen, hcode]; exact h.degen
  result := by rw [hresult]; exact h.result

theorem inv_advance {s : State} (h : s.Inv) : s.advance.Inv := inv_congr h rfl rfl rfl rfl rfl rfl

/-! ### What each event does to it -/

/-- A commit ends the command, so only STATUS and RESULT are left to check. -/
theorem inv_of_anyCommit {s t : State} (h : s.Inv) (hc : AnyCommit s t) : t.Inv := by
  refine inv_of_idle hc.pending hc.degen fun hw => ?_
  rcases hc.result with hr | hr
  · rw [hr] at hw ⊢
    exact h.result hw
  · exact hr

/-- A fresh issue has no working registers, and its snapshot is the registers (10_state R39, R45). -/
theorem inv_issue {s : State} (h : s.Inv) (w : Word) : (s.issue w).Inv where
  latched := by rintro p ⟨⟩; rfl
  snapshot := by rintro p ⟨⟩; rfl
  ladder := by rintro p g ⟨⟩ ⟨⟩
  degen := h.degen
  result := h.result

/-- The working registers after one more piece of progress still belong to the running PLADDER. -/
theorem onLadder_ladderProgress {s : State} (h : s.Inv) {p : Pending} {rd rs1 : Fin 8} {rs2 : Fin 16}
    (hp : s.pending = some p) (hd : decode p.word = some (.pladder rd rs1 rs2)) :
    OnLadder (s.pointOperand rs1) (val (s.feOperand rs2)) s.a24Operand (s.ladderProgress rs1 rs2) := by
  have hwork : s.working = p.ladder := by simp only [State.working, hp, Option.bind_some]
  unfold State.ladderProgress
  cases hg : p.ladder with
  | none =>
    rw [hwork, hg]
    exact onLadder_start _ _ _
  | some g =>
    rw [hwork, hg]
    obtain ⟨-, hon⟩ := (ladderOk_iff hd).mp (h.ladder p g hp hg)
    exact onLadder_step hon

/-- Hidden progress keeps the invariant: the set-up is on the ladder, and so is one more iteration. -/
theorem inv_work {s : State} (h : s.Inv) : s.work.Inv := by
  rcases work_cases s with hw | ⟨p, rd, rs1, rs2, hp, hd, hruns, hw⟩
  · rwa [hw]
  have hoperands : s.work.operands = s.operands := work_operands s
  rw [hw] at hoperands ⊢
  refine ⟨?_, ?_, ?_, h.degen, h.result⟩
  · rintro q ⟨⟩
    exact h.latched p hp
  · rintro q ⟨⟩
    exact h.snapshot p hp
  · rintro q g ⟨⟩ ⟨⟩
    exact ladderOk_congr (p := p) hoperands rfl ((ladderOk_iff hd).mpr ⟨hruns, onLadder_ladderProgress h hp hd⟩)

/-- Every event keeps the invariant. -/
theorem inv_of_eventEffect {s t : State} {e : Event} (h : s.Inv) (he : EventEffect s e t) : t.Inv := by
  cases he with
  | commit hc => exact inv_of_anyCommit h hc
  | work => exact inv_work h
  | reset p _ => exact inv_of_idle rfl (fun _ => rfl) (fun hw => absurd hw Bool.false_ne_true)
  | store p d _ hidle => exact inv_of_idle (by simpa [State.busy] using hidle) h.degen h.result
  | issue p _ _ => exact inv_issue h p.wdata
  | quiet | drop | clear => exact inv_congr h rfl rfl rfl rfl rfl rfl

/-- Every step keeps the invariant. -/
theorem inv_step {s t : State} (h : s.Inv) (hst : step s = .next t) : t.Inv := by
  obtain ⟨e, -, he⟩ := step_effect hst
  exact inv_of_eventEffect (inv_advance h) he

/-- Settles O11: every event keeps the invariant, and its snapshot clause makes the operands the registers. -/
theorem stepKeepsInv : Obligations.StepKeepsInv := fun _ _ h hst =>
  ⟨inv_step h hst, operands_eq_data h, operands_eq_data (inv_step h hst)⟩

end Sys2Proof.Proofs
end

section
/-! PROOFS. Valid field elements: the operand check, and the validity of all that the datapath gives to the registers. -/

namespace Sys2Proof.Proofs

open Sys2Proof.Machine Sys2Proof.Laws

/-! ### The operand check -/

/-- The operand check accepts exactly the valid field elements (10_state R34, 41_field R121). -/
theorem validFE_iff (e : Pair) : validFE e = true ↔ Canonical e := by
  simp only [validFE, validate, Bool.and_eq_true, beq_iff_eq, isLimb_iff, rawCompare_pfe_less, canonical_iff, val_eq, p_eq]
  omega

theorem validPoint_iff (q : Point) : validPoint q = true ↔ CanonicalPoint q := by
  simp only [validPoint, Bool.and_eq_true, validFE_iff, canonicalPoint_iff]

theorem canonical_fe_mod (n : Nat) : Canonical (fe (n % Config.p)) := canonical_fe _ (Nat.mod_lt _ p_pos)

/-! ### Limbs -/

/-- A carry, a borrow or 0 over a limb is a valid field element. -/
theorem canonical_limbPair {h l : Nat} (hh : h ≤ 1) (hl : l < 2147483648) : Canonical (limbPair h l) := by
  rw [canonical_iff, val_limbPair h l (by omega) (by omega), limbPair_hi h l (by omega), limbPair_lo h l (by omega), p_eq]
  omega

theorem addLimb_lt (a b : Nat) : addLimb a b < 2147483648 := Nat.mod_lt _ (by decide)
theorem subLimb_lt (a b : Nat) : subLimb a b < 2147483648 := Nat.mod_lt _ (by decide)

/-- The carry of two limbs is a bit. -/
theorem addLimbWithCarry_snd_le {a b : Nat} (ha : a < 2147483648) (hb : b < 2147483648) :
    (addLimbWithCarry a b).2 ≤ 1 := by
  rw [addLimbWithCarry, limbBase_eq]
  omega

/-- The borrow is a bit. -/
theorem subLimbWithBorrow_snd_le (a b : Nat) : (subLimbWithBorrow a b).2 ≤ 1 := by
  rw [subLimbWithBorrow]
  split
  · exact le_rfl
  · exact Nat.zero_le 1

/-- Where there is no borrow the difference of two limbs is their difference. -/
theorem subLimbWithBorrow_of_le {a b : Nat} (ha : a < 2147483648) (h : b ≤ a) :
    subLimbWithBorrow a b = (a - b, 0) := by
  rw [subLimbWithBorrow, subLimb, limbBase_eq, if_neg (by omega), show (a + 2147483648 - b) % 2147483648 = a - b by omega]

/-- Where there is a borrow, 2^31 is added to the difference of two limbs. -/
theorem subLimbWithBorrow_of_lt {a b : Nat} (h : a < b) :
    subLimbWithBorrow a b = (a + 2147483648 - b, 1) := by
  rw [subLimbWithBorrow, subLimb, limbBase_eq, if_pos h, Nat.mod_eq_of_lt (by omega)]

theorem limbPair_eq_fe {h l v : Nat} (hl : l < 2147483648) (hv : v = 2147483648 * h + l) : limbPair h l = fe v := by
  rw [fe_eq, show v / 2147483648 = h by omega, show v % 2147483648 = l by omega]

/-! ### Addition and subtraction -/

/-- `addCore` on pairs with limbs for low words whose values sum to less than 2p is the sum modulo p (41_field R122): the
limb-wise sum with its carry is the sum itself, the comparison with p decides whether it is below p, and if not, p is taken off
once. -/
theorem addCore_eq_fe {x y : Pair} (hxl : x.lo.toNat < 2147483648) (hyl : y.lo.toNat < 2147483648)
    (hsum : val x + val y < 2 * Config.p) :
    addCore x y = fe ((val x + val y) % Config.p) := by
  obtain ⟨lo, c, hadd, hlo, hlimbs⟩ : ∃ lo c, addLimbWithCarry x.lo.toNat y.lo.toNat = (lo, c) ∧ lo < 2147483648 ∧
      x.lo.toNat + y.lo.toNat = 2147483648 * c + lo :=
    ⟨_, _, rfl, Nat.mod_lt _ (by decide), (Nat.div_add_mod _ _).symm⟩
  rw [val_eq, val_eq, p_eq] at *
  simp only [addCore, hadd, rawCompare_pfe_less, pfe_hi, pfe_lo]
  rw [limbPair_hi _ _ (by omega), limbPair_lo _ _ (by omega)]
  split
  · exact limbPair_eq_fe hlo (by omega)
  · rcases Nat.lt_or_ge lo 2147483647 with h | h
    · rw [subLimbWithBorrow_of_lt h]
      exact limbPair_eq_fe (by dsimp only; omega) (by dsimp only; omega)
    · rw [subLimbWithBorrow_of_le hlo h]
      exact limbPair_eq_fe (by dsimp only; omega) (by dsimp only; omega)

theorem canonical_addCore {x y : Pair} (hx : Canonical x) (hy : Canonical y) : Canonical (addCore x y) := by
  obtain ⟨-, hxl, hxp⟩ := hx
  obtain ⟨-, hyl, hyp⟩ := hy
  rw [addCore_eq_fe hxl hyl (by omega)]
  exact canonical_fe_mod _

/-- `negCore` of a valid element is the limb pair of value p − b; there is no borrow (41_field R123). -/
theorem negCore_limbs {b : Pair} (hb : Canonical b) :
    (negCore b).hi.toNat < 2147483648 ∧ (negCore b).lo.toNat < 2147483648 ∧ val (negCore b) = Config.p - val b := by
  obtain ⟨hbh, hbl, hbp⟩ := hb
  rw [val_eq, p_eq] at hbp
  have hd := subLimbWithBorrow_of_le (a := 2147483647) (b := b.lo.toNat) (by decide) (by omega)
  have hneg : negCore b = limbPair (1073741823 - b.hi.toNat) (2147483647 - b.lo.toNat) := by
    simp only [negCore, pfe_lo, hd, pfe_hi, Nat.sub_zero]
  rw [hneg, limbPair_hi _ _ (by omega), limbPair_lo _ _ (by omega), val_limbPair _ _ (by omega) (by omega), val_eq, p_eq]
  omega

theorem canonical_subCore {a b : Pair} (ha : Canonical a) (hb : Canonical b) : Canonical (subCore a b) := by
  obtain ⟨-, hal, hap⟩ := ha
  obtain ⟨-, hnl, hn⟩ := negCore_limbs hb
  rw [subCore, addCore_eq_fe hal hnl (by omega)]
  exact canonical_fe_mod _

/-! ### Products, points and the ladder -/

/-- `mulCore` reduces modulo p at its end, whatever its operands are (41_field R126). -/
theorem canonical_mulCore (a b : Pair) : Canonical (mulCore a b) := canonical_fe_mod _

theorem canonical_fromIntegerCore (n : Nat) : Canonical (fromIntegerCore n) := canonical_fe_mod n

/-- Both coordinates of a doubled point are products. -/
theorem canonicalPoint_doubleCP (q : Point) (a24 : Pair) : CanonicalPoint (doubleCP q a24) :=
  ⟨canonical_mulCore _ _, canonical_mulCore _ _⟩

/-- Both coordinates of a differential sum are products. -/
theorem canonicalPoint_addCP (p1 p2 pd : Point) : CanonicalPoint (addCP p1 p2 pd) :=
  ⟨canonical_mulCore _ _, canonical_mulCore _ _⟩

theorem canonicalPoint_ladderZero : CanonicalPoint ladderZero := ⟨canonical_fe 1 (by decide), canonical_fe 0 (by decide)⟩

theorem canonicalPoint_ladderIter_fst (d : Point) (a24 : Pair) (b : Bool) (rs : Point × Point) :
    CanonicalPoint (ladderIter d a24 b rs).1 := by
  cases b
  · rw [ladderIter_false]
    exact canonicalPoint_doubleCP _ _
  · rw [ladderIter_true]
    exact canonicalPoint_addCP _ _ _

/-- The running point R stays valid through the iterations. -/
theorem canonicalPoint_ladderLoop_fst (d : Point) (k : Nat) (a24 : Pair) (n : Nat) {rs : Point × Point}
    (h : CanonicalPoint rs.1) : CanonicalPoint (ladderLoop d k a24 n rs).1 := by
  induction n generalizing rs with
  | zero => exact h
  | succ n ih => exact ih (canonicalPoint_ladderIter_fst d a24 _ rs)

/-- The ladder of a valid base point is a valid point. -/
theorem canonicalPoint_ladder {d : Point} (k : Nat) (a24 : Pair) (h : CanonicalPoint d) :
    CanonicalPoint (ladder d k a24) := by
  unfold ladder
  split
  · exact canonicalPoint_ladderZero
  · exact canonicalPoint_ladderLoop_fst d k a24 _ h

/-- What a PLADDER with a nonzero scalar commits is the ladder's point, wherever its hidden progress stands (43_ladder R180,
R186): the working registers, if there are any, are on the ladder. -/
theorem ladderPoint_eq_ladder {s : State} {rd rs1 : Fin 8} {rs2 : Fin 16} (hinv : s.Inv)
    (hown : ∀ p, s.pending = some p → p.ladder = none ∨ decode p.word = some (.pladder rd rs1 rs2))
    (hk : val (s.feOperand rs2) ≠ 0) :
    s.ladderPoint rs1 rs2 = ladder (s.pointOperand rs1) (val (s.feOperand rs2)) s.a24Operand := by
  rw [ladder, if_neg hk, State.ladderPoint]
  cases hg : s.working with
  | none => rfl
  | some g =>
    obtain ⟨p, hp, hpg⟩ := Option.bind_eq_some_iff.mp hg
    have hd := (hown p hp).resolve_left (by simp [hpg])
    obtain ⟨-, -, -, hfinish⟩ := (ladderOk_iff hd).mp (hinv.ladder p g hp hpg)
    exact congrArg Prod.fst hfinish

end Sys2Proof.Proofs
end

section
/-! PROOFS. The engine writes field registers at a commit only, and only valid elements (10_state R33). -/

namespace Sys2Proof.Proofs

open Sys2Proof.Machine Sys2Proof.Laws

/-! ### A commit that writes valid elements -/

/-- From `s` to `t` a field register is unchanged, or the commit had code OK and the register holds a valid element, both words
written. -/
def WritesValid (s t : State) : Prop :=
  ∀ i, t.data.freg i = s.data.freg i ∨
    (t.status.code = .ok ∧ ∃ e, Canonical e ∧ t.data.freg i = Reg.put e)

theorem writesValid_of_freg_eq {s t : State} (h : ∀ i, t.data.freg i = s.data.freg i) : WritesValid s t :=
  fun i => .inl (h i)

theorem writesValid_writeF (s : State) (rd : Fin 16) {e : Pair} (he : Canonical e) :
    WritesValid s ((s.writeF rd e).commit .ok false) := by
  intro i
  by_cases hi : i = rd
  · exact .inr ⟨rfl, e, he, by simp [hi]⟩
  · exact .inl (by simp [setF_freg_other _ _ hi])

theorem writesValid_writePoint (s : State) (rd : Fin 8) {q : Point} (z : Bool) (hq : CanonicalPoint q) :
    WritesValid s ((s.writePoint rd q).commit .ok z) := by
  obtain ⟨hx, hz⟩ := hq
  intro i
  by_cases hix : i = pointX rd
  · exact .inr ⟨rfl, q.x, hx, by rw [hix, commit_data, writePoint_freg_x]⟩
  by_cases hiz : i = pointZ rd
  · exact .inr ⟨rfl, q.z, hz, by rw [hiz, commit_data, writePoint_freg_z]⟩
  · exact .inl (by rw [commit_data, writePoint_freg_other _ _ _ hix hiz])

/-- A step's outcome writes valid elements. -/
def OutcomeValid (s : State) (o : Outcome) : Prop := ∀ t, o = .next t → WritesValid s t

theorem outcomeValid_next {s t : State} (h : WritesValid s t) : OutcomeValid s (.next t) := by
  rintro t ⟨⟩
  exact h

theorem outcomeValid_raise (s : State) (c : CompletionCode) : OutcomeValid s (s.raise c) :=
  outcomeValid_next (writesValid_of_freg_eq fun _ => rfl)

/-! ### The shapes of command -/

theorem limbCommand_outcomeValid (s : State) (rd rs1 rs2 : Fin 16) {f : Nat → Nat → Nat × Nat}
    (hf : ∀ a b, a < 2147483648 → b < 2147483648 → Canonical (limbPair (f a b).1 (f a b).2)) :
    OutcomeValid s (s.limbCommand f rd rs1 rs2) := by
  rcases limbCommand_cases s f rd rs1 rs2 with ⟨h1, h2, h⟩ | ⟨-, h⟩ <;> rw [h]
  · exact outcomeValid_next (writesValid_writeF s rd (hf _ _ ((isLimb_iff _).mp h1) ((isLimb_iff _).mp h2)))
  · exact outcomeValid_raise s _

theorem fieldCommand_outcomeValid (s : State) (rd rs1 rs2 : Fin 16) {f : Pair → Pair → Pair}
    (hf : ∀ a b, Canonical a → Canonical b → Canonical (f a b)) : OutcomeValid s (s.fieldCommand f rd rs1 rs2) := by
  rcases fieldCommand_cases s f rd rs1 rs2 with ⟨h1, h2, h⟩ | ⟨-, h⟩ <;> rw [h]
  · exact outcomeValid_next (writesValid_writeF s rd (hf _ _ ((validFE_iff _).mp h1) ((validFE_iff _).mp h2)))
  · exact outcomeValid_raise s _

theorem pointCommand_outcomeValid (s : State) (valid : Bool) (rd : Fin 8) {q : Point} (hq : CanonicalPoint q) :
    OutcomeValid s (s.pointCommand valid rd q) := by
  cases valid
  · exact outcomeValid_raise s _
  · exact outcomeValid_next (writesValid_writePoint s rd false hq)

/-- A PLADDER writes the ladder's point of a checked base point, so of a valid one. -/
theorem execPladder_outcomeValid {s : State} {rd rs1 : Fin 8} {rs2 : Fin 16} (hinv : s.Inv)
    (hown : ∀ p, s.pending = some p → p.ladder = none ∨ decode p.word = some (.pladder rd rs1 rs2)) :
    OutcomeValid s (execPladder rd rs1 rs2 s) := by
  unfold execPladder
  by_cases hv : s.ladderOperandsValid rs1 rs2 = true
  · have hbase : CanonicalPoint (s.pointOperand rs1) := by
      simp only [State.ladderOperandsValid, Bool.and_eq_true, validPoint_iff] at hv
      exact hv.1.1
    rw [if_pos hv]
    by_cases hk : val (s.feOperand rs2) = 0
    · rw [if_pos hk]
      exact outcomeValid_next (writesValid_writePoint s rd true canonicalPoint_ladderZero)
    · rw [if_neg hk, ladderPoint_eq_ladder hinv hown hk]
      exact outcomeValid_next (writesValid_writePoint s rd false (canonicalPoint_ladder _ _ hbase))
  · rw [if_neg hv]
    exact outcomeValid_raise s _

/-- Every command writes valid elements; for a PLADDER because the working registers are its own. -/
theorem exec_outcomeValid {i : Instr} {s : State} (hinv : s.Inv)
    (hown : ∀ p, s.pending = some p → p.ladder = none ∨ decode p.word = some i) : OutcomeValid s (exec i s) := by
  cases i with
  | ladd rd rs1 rs2 =>
    simp only [exec, execLadd]
    refine limbCommand_outcomeValid s rd rs1 rs2 fun a b _ _ => ?_
    exact canonical_limbPair (Nat.zero_le 1) (addLimb_lt a b)
  | laddc rd rs1 rs2 =>
    simp only [exec, execLaddc]
    refine limbCommand_outcomeValid s rd rs1 rs2 fun a b ha hb => ?_
    exact canonical_limbPair (addLimbWithCarry_snd_le ha hb) (addLimb_lt a b)
  | lsub rd rs1 rs2 =>
    simp only [exec, execLsub]
    refine limbCommand_outcomeValid s rd rs1 rs2 fun a b _ _ => ?_
    exact canonical_limbPair (Nat.zero_le 1) (subLimb_lt a b)
  | lsubb rd rs1 rs2 =>
    simp only [exec, execLsubb]
    refine limbCommand_outcomeValid s rd rs1 rs2 fun a b _ _ => ?_
    exact canonical_limbPair (subLimbWithBorrow_snd_le a b) (subLimb_lt a b)
  | fcmp rs1 rs2 =>
    simp only [exec, execFcmp]
    split
    · exact outcomeValid_next (writesValid_of_freg_eq fun _ => rfl)
    · exact outcomeValid_raise s _
  | fval rs1 => exact outcomeValid_next (writesValid_of_freg_eq fun _ => rfl)
  | fadd rd rs1 rs2 => exact fieldCommand_outcomeValid s rd rs1 rs2 fun _ _ => canonical_addCore
  | fsub rd rs1 rs2 => exact fieldCommand_outcomeValid s rd rs1 rs2 fun _ _ => canonical_subCore
  | fmul rd rs1 rs2 => exact fieldCommand_outcomeValid s rd rs1 rs2 fun a b _ _ => canonical_mulCore a b
  | ffromint rd => exact outcomeValid_next (writesValid_writeF s rd (canonical_fromIntegerCore _))
  | ftoint rs1 =>
    simp only [exec, execFtoint]
    split
    · exact outcomeValid_next (writesValid_of_freg_eq fun i => writeIR_freg s _ i)
    · exact outcomeValid_raise s _
  | pdbl rd rs1 => exact pointCommand_outcomeValid s _ rd (canonicalPoint_doubleCP _ _)
  | padd rd rs1 rs2 rs3 => exact pointCommand_outcomeValid s _ rd (canonicalPoint_addCP _ _ _)
  | pladder rd rs1 rs2 => exact execPladder_outcomeValid hinv hown

/-! ### The statement -/

/-- The engine's commit writes valid elements, from every state of the invariant. -/
theorem engineCommit_writesValid {s t : State} (hinv : s.Inv) (h : engineCommit s = .next t) : WritesValid s t := by
  rcases engineCommit_cases s with ⟨-, he⟩ | ⟨p, i, hp, hd, he⟩ | ⟨p, -, -, he⟩ <;> rw [he] at h
  · obtain rfl := Host.Outcome.next.inj h
    exact writesValid_of_freg_eq fun _ => rfl
  · refine exec_outcomeValid hinv (fun q hq => .inr ?_) t h
    obtain rfl := Option.some.inj (hp.symm.trans hq)
    exact hd
  · exact outcomeValid_raise s _ t h

/-- Settles O45: of the two steps that are no host access, the commit writes valid elements and hidden progress writes no
register. -/
theorem engineWritesValidElements : Obligations.EngineWritesValidElements := by
  intro s t i hinv hst hhost
  rcases step_cases hst with ⟨hn, ho⟩ | ⟨-, ho⟩ | ⟨p, hn, -⟩
  · rcases engineCommit_writesValid (inv_advance hinv) ho.symm i with hi | ⟨hok, e, he, hi⟩
    · exact .inl hi
    · exact .inr ⟨hn, hok, by rwa [hi, put_pair], by rw [hi]; rfl, by rw [hi]; rfl⟩
  · obtain rfl := Host.Outcome.next.inj ho
    exact .inl (by rw [work_data, advance_data])
  · exact absurd hn (hhost p)

end Sys2Proof.Proofs
end

section
/-! PROOFS. A command whose operand words are all written does not depend on the value of any unwritten word (10_state R48, 70
R233): the operands it reads agree, so it does the same write and commit on both states. -/

namespace Sys2Proof.Proofs

open Sys2Proof.Machine Sys2Proof.Laws

/-! ### Registers that agree on their written words -/

/-- Both words of two registers agree where they are written. -/
def RegAgree (a b : Reg) : Prop := a.hi.Agree b.hi ∧ a.lo.Agree b.lo

theorem regWord_agree_refl (a : RegWord) : a.Agree a := ⟨rfl, fun _ => rfl⟩
theorem regAgree_refl (a : Reg) : RegAgree a a := ⟨regWord_agree_refl _, regWord_agree_refl _⟩

/-- Two banks agree where all their registers do. -/
theorem bankAgree_iff (a b : Bank) :
    a.Agree b ↔ (∀ i, RegAgree (a.freg i) (b.freg i)) ∧ RegAgree a.ir b.ir ∧ RegAgree a.a24 b.a24 := by
  constructor
  · intro h
    exact ⟨fun i => ⟨h (.f i .hi), h (.f i .lo)⟩, ⟨h (.ir .hi), h (.ir .lo)⟩, ⟨h (.a24 .hi), h (.a24 .lo)⟩⟩
  · rintro ⟨hf, hir, ha24⟩ (⟨i, _ | _⟩ | ⟨_ | _⟩ | ⟨_ | _⟩)
    exacts [(hf i).2, (hf i).1, hir.2, hir.1, ha24.2, ha24.1]

/-- The same write to a field register keeps the agreement of two banks. -/
theorem bankAgree_setF {a b : Bank} (h : a.Agree b) (i : Fin 16) (r : Reg) : (a.setF i r).Agree (b.setF i r) := by
  obtain ⟨hf, hir, ha24⟩ := (bankAgree_iff a b).mp h
  refine (bankAgree_iff _ _).mpr ⟨fun j => ?_, hir, ha24⟩
  rw [setF_freg, setF_freg]
  split
  · exact regAgree_refl r
  · exact hf j

/-- The same write to IR keeps the agreement of two banks. -/
theorem bankAgree_setIR {a b : Bank} (h : a.Agree b) (r : Reg) :
    ({ a with ir := r } : Bank).Agree { b with ir := r } := by
  obtain ⟨hf, -, ha24⟩ := (bankAgree_iff a b).mp h
  exact (bankAgree_iff _ _).mpr ⟨hf, regAgree_refl r, ha24⟩

/-! ### Written operands of states that agree -/

/-- Every word of a list is written, as the running command sees it. -/
def WordsWritten (s : State) (l : List DataWord) : Prop := ∀ d ∈ l, (s.operands.word d).written = true

theorem wordsWritten_append {s : State} {l m : List DataWord} :
    WordsWritten s (l ++ m) ↔ WordsWritten s l ∧ WordsWritten s m := List.forall_mem_append

section
variable {s t : State} (h : s.Agree t)
include h

/-- A written operand word has the same value in both states. -/
theorem agree_word {l : List DataWord} (hw : WordsWritten s l) {d : DataWord} (hd : d ∈ l) :
    (s.operands.word d).val = (t.operands.word d).val := (h.operands d).2 (hw d hd)

theorem agree_limbOperand {l : List DataWord} (hw : WordsWritten s l) {i : Fin 16} (hd : .f i .lo ∈ l) :
    s.limbOperand i = t.limbOperand i := agree_word h hw hd

theorem agree_feOperand {i : Fin 16} (hw : WordsWritten s (fWords i)) : s.feOperand i = t.feOperand i := by
  have hhi := agree_word h hw (d := .f i .hi) (by simp [fWords])
  have hlo := agree_word h hw (d := .f i .lo) (by simp [fWords])
  exact congrArg₂ Pair.mk hhi hlo

theorem agree_pointOperand {k : Fin 8} (hw : WordsWritten s (pWords k)) : s.pointOperand k = t.pointOperand k := by
  obtain ⟨hx, hz⟩ := wordsWritten_append.mp hw
  exact congrArg₂ Point.mk (agree_feOperand h hx) (agree_feOperand h hz)

theorem agree_irOperand (hw : WordsWritten s [.ir .lo, .ir .hi]) : s.irOperand = t.irOperand := by
  have hhi := agree_word h hw (d := .ir .hi) (by simp)
  have hlo := agree_word h hw (d := .ir .lo) (by simp)
  exact congrArg int64 (congrArg₂ Pair.mk hhi hlo)

theorem agree_a24Operand (hw : WordsWritten s a24Words) : s.a24Operand = t.a24Operand := by
  have hhi := agree_word h hw (d := .a24 .hi) (by simp [a24Words])
  have hlo := agree_word h hw (d := .a24 .lo) (by simp [a24Words])
  exact congrArg₂ Pair.mk hhi hlo

/-- The marks of A24 agree, written or not. -/
theorem agree_a24Written : s.a24Written = t.a24Written :=
  congrArg₂ or (h.operands (.a24 .hi)).1 (h.operands (.a24 .lo)).1

/-! ### The same write and commit on states that agree -/

/-- A commit of two states that agree but for what was pending gives states that agree. -/
theorem agree_commit_of_data {u v : State} (c : CompletionCode) (z : Bool) (hdata : u.data.Agree v.data)
    (hresult : u.result.Agree v.result)
    (hu : u = { s with data := u.data, result := u.result }) (hv : v = { t with data := v.data, result := v.result }) :
    (u.commit c z).Agree (v.commit c z) := by
  rw [hu, hv]
  refine ⟨hdata, hresult, h.cmd, ?_, rfl, rfl, hdata, h.rdata, h.agenda, h.freeIdx⟩
  simp only [commit_status, h.status]

theorem agree_commit (c : CompletionCode) (z : Bool) : (s.commit c z).Agree (t.commit c z) :=
  agree_commit_of_data h c z h.data h.result rfl rfl

theorem agree_writeF (i : Fin 16) (e : Pair) (c : CompletionCode) (z : Bool) :
    ((s.writeF i e).commit c z).Agree ((t.writeF i e).commit c z) :=
  agree_commit_of_data h c z (bankAgree_setF h.data i _) h.result rfl rfl

theorem agree_writePoint (k : Fin 8) (q : Point) (c : CompletionCode) (z : Bool) :
    ((s.writePoint k q).commit c z).Agree ((t.writePoint k q).commit c z) :=
  agree_commit_of_data h c z (bankAgree_setF (bankAgree_setF h.data _ _) _ _) h.result rfl rfl

theorem agree_writeIR (n : Nat) (c : CompletionCode) (z : Bool) :
    ((s.writeIR n).commit c z).Agree ((t.writeIR n).commit c z) :=
  agree_commit_of_data h c z (bankAgree_setIR h.data _) h.result rfl rfl

theorem agree_writeResult (w : Word) (c : CompletionCode) (z : Bool) :
    ((s.writeResult w).commit c z).Agree ((t.writeResult w).commit c z) :=
  agree_commit_of_data h c z h.data (regWord_agree_refl _) rfl rfl

end

/-! ### Outcomes that agree -/

/-- Both outcomes are next states, and these agree. -/
def OutcomesAgree (o o' : Outcome) : Prop := ∃ s' t', o = .next s' ∧ o' = .next t' ∧ s'.Agree t'

theorem outcomesAgree_next {s t : State} (h : s.Agree t) : OutcomesAgree (.next s) (.next t) := ⟨s, t, rfl, rfl, h⟩

/-- The same choice between outcomes that agree. -/
theorem outcomesAgree_ite {c : Prop} [Decidable c] {o o' q q' : Outcome} (ho : OutcomesAgree o o')
    (hq : OutcomesAgree q q') : OutcomesAgree (if c then o else q) (if c then o' else q') := by
  split
  · exact ho
  · exact hq

section
variable {s t : State} (h : s.Agree t)
include h

theorem outcomesAgree_raise (c : CompletionCode) : OutcomesAgree (s.raise c) (t.raise c) :=
  outcomesAgree_next (agree_commit h c false)

theorem outcomesAgree_limbCommand (f : Nat → Nat → Nat × Nat) (rd : Fin 16) {rs1 rs2 : Fin 16}
    (hw : WordsWritten s [.f rs1 .lo, .f rs2 .lo]) :
    OutcomesAgree (s.limbCommand f rd rs1 rs2) (t.limbCommand f rd rs1 rs2) := by
  have h1 := agree_limbOperand h hw (i := rs1) (by simp)
  have h2 := agree_limbOperand h hw (i := rs2) (by simp)
  simp only [State.limbCommand, h1, h2]
  exact outcomesAgree_ite (outcomesAgree_next (agree_writeF h _ _ _ _)) (outcomesAgree_raise h _)

theorem outcomesAgree_fieldCommand (f : Pair → Pair → Pair) (rd : Fin 16) {rs1 rs2 : Fin 16}
    (hw : WordsWritten s (fWords rs1 ++ fWords rs2)) :
    OutcomesAgree (s.fieldCommand f rd rs1 rs2) (t.fieldCommand f rd rs1 rs2) := by
  obtain ⟨hw1, hw2⟩ := wordsWritten_append.mp hw
  simp only [State.fieldCommand, agree_feOperand h hw1, agree_feOperand h hw2]
  exact outcomesAgree_ite (outcomesAgree_next (agree_writeF h _ _ _ _)) (outcomesAgree_raise h _)

theorem outcomesAgree_pointCommand (valid : Bool) (rd : Fin 8) (q : Point) :
    OutcomesAgree (s.pointCommand valid rd q) (t.pointCommand valid rd q) :=
  outcomesAgree_ite (outcomesAgree_next (agree_writePoint h _ _ _ _)) (outcomesAgree_raise h _)

theorem outcomesAgree_execFcmp {rs1 rs2 : Fin 16} (hw : WordsWritten s (fWords rs1 ++ fWords rs2)) :
    OutcomesAgree (execFcmp rs1 rs2 s) (execFcmp rs1 rs2 t) := by
  obtain ⟨hw1, hw2⟩ := wordsWritten_append.mp hw
  simp only [execFcmp, agree_feOperand h hw1, agree_feOperand h hw2]
  exact outcomesAgree_ite (outcomesAgree_next (agree_writeResult h _ _ _)) (outcomesAgree_raise h _)

theorem outcomesAgree_execFval {rs1 : Fin 16} (hw : WordsWritten s (fWords rs1)) :
    OutcomesAgree (execFval rs1 s) (execFval rs1 t) := by
  simp only [execFval, agree_feOperand h hw]
  exact outcomesAgree_next (agree_writeResult h _ _ _)

theorem outcomesAgree_execFfromint (rd : Fin 16) (hw : WordsWritten s [.ir .lo, .ir .hi]) :
    OutcomesAgree (execFfromint rd s) (execFfromint rd t) := by
  simp only [execFfromint, agree_irOperand h hw]
  exact outcomesAgree_next (agree_writeF h _ _ _ _)

theorem outcomesAgree_execFtoint {rs1 : Fin 16} (hw : WordsWritten s (fWords rs1)) :
    OutcomesAgree (execFtoint rs1 s) (execFtoint rs1 t) := by
  simp only [execFtoint, agree_feOperand h hw]
  exact outcomesAgree_ite (outcomesAgree_next (agree_writeIR h _ _ _)) (outcomesAgree_raise h _)

theorem outcomesAgree_execPdbl (rd : Fin 8) {rs1 : Fin 8} (hw : WordsWritten s (pWords rs1 ++ a24Words)) :
    OutcomesAgree (execPdbl rd rs1 s) (execPdbl rd rs1 t) := by
  obtain ⟨hw1, hwa⟩ := wordsWritten_append.mp hw
  simp only [execPdbl, agree_pointOperand h hw1, agree_a24Operand h hwa, agree_a24Written h]
  exact outcomesAgree_pointCommand h _ _ _

theorem outcomesAgree_execPadd (rd : Fin 8) {rs1 rs2 rs3 : Fin 8}
    (hw : WordsWritten s (pWords rs1 ++ pWords rs2 ++ pWords rs3)) :
    OutcomesAgree (execPadd rd rs1 rs2 rs3 s) (execPadd rd rs1 rs2 rs3 t) := by
  obtain ⟨hw12, hw3⟩ := wordsWritten_append.mp hw
  obtain ⟨hw1, hw2⟩ := wordsWritten_append.mp hw12
  simp only [execPadd, agree_pointOperand h hw1, agree_pointOperand h hw2, agree_pointOperand h hw3]
  exact outcomesAgree_pointCommand h _ _ _

/-- The working registers agree as well, so both states carry on the same ladder. -/
theorem outcomesAgree_execPladder (rd : Fin 8) {rs1 : Fin 8} {rs2 : Fin 16}
    (hw : WordsWritten s (pWords rs1 ++ fWords rs2 ++ a24Words)) :
    OutcomesAgree (execPladder rd rs1 rs2 s) (execPladder rd rs1 rs2 t) := by
  obtain ⟨hw12, hwa⟩ := wordsWritten_append.mp hw
  obtain ⟨hw1, hw2⟩ := wordsWritten_append.mp hw12
  simp only [execPladder, State.ladderOperandsValid, State.ladderPoint, agree_pointOperand h hw1, agree_feOperand h hw2,
    agree_a24Operand h hwa, h.ladder]
  refine outcomesAgree_ite (outcomesAgree_ite ?_ ?_) (outcomesAgree_raise h _)
  · exact outcomesAgree_next (agree_writePoint h _ _ _ _)
  · exact outcomesAgree_next (agree_writePoint h _ _ _ _)

/-- Every command takes states that agree, its operand words written, to states that agree. -/
theorem outcomesAgree_exec {i : Instr} (hw : WordsWritten s (operandWords i)) : OutcomesAgree (exec i s) (exec i t) := by
  cases i with
  | ladd rd rs1 rs2 =>
    simp only [exec, execLadd]
    exact outcomesAgree_limbCommand h _ rd hw
  | laddc rd rs1 rs2 =>
    simp only [exec, execLaddc]
    exact outcomesAgree_limbCommand h _ rd hw
  | lsub rd rs1 rs2 =>
    simp only [exec, execLsub]
    exact outcomesAgree_limbCommand h _ rd hw
  | lsubb rd rs1 rs2 =>
    simp only [exec, execLsubb]
    exact outcomesAgree_limbCommand h _ rd hw
  | fcmp rs1 rs2 => exact outcomesAgree_execFcmp h hw
  | fval rs1 => exact outcomesAgree_execFval h hw
  | fadd rd rs1 rs2 => exact outcomesAgree_fieldCommand h addCore rd hw
  | fsub rd rs1 rs2 => exact outcomesAgree_fieldCommand h subCore rd hw
  | fmul rd rs1 rs2 => exact outcomesAgree_fieldCommand h mulCore rd hw
  | ffromint rd => exact outcomesAgree_execFfromint h rd hw
  | ftoint rs1 => exact outcomesAgree_execFtoint h hw
  | pdbl rd rs1 => exact outcomesAgree_execPdbl h rd hw
  | padd rd rs1 rs2 rs3 => exact outcomesAgree_execPadd h rd hw
  | pladder rd rs1 rs2 => exact outcomesAgree_execPladder h rd hw

end

/-- Settles O46: a command reads its operands from written words only, and writes the same on both states. -/
theorem unwrittenWordsDoNotLeak : Obligations.UnwrittenWordsDoNotLeak := fun _ _ _ h hw =>
  outcomesAgree_exec h hw

end Sys2Proof.Proofs
end

section
/-! PROOFS. The window: its map, the reserved offsets, writes while busy, and the registers a write cannot set. -/

namespace Sys2Proof.Proofs

open Sys2Proof.Machine Sys2Proof.Laws

/-! ### The offsets of the window -/

/-- The register depends on addr[7:2] only (20_memory R65). -/
theorem windowReg_congr {a b : BitVec 8} (h : a.toNat / 4 = b.toNat / 4) : windowReg a = windowReg b := by
  simp only [windowReg, h]

/-- Masking the low two bits of an offset keeps addr[7:2]. -/
theorem and_0xFC_div_four (addr : BitVec 8) : (addr &&& 0xFC#8).toNat / 4 = addr.toNat / 4 := by
  have hk : addr.toNat / 4 < 2 ^ 6 := by omega
  calc (addr &&& 0xFC#8).toNat / 4
      = addr.toNat / 4 &&& (2 ^ 6 - 1) := by rw [BitVec.toNat_and, Nat.and_div_two_pow (n := 2)]; rfl
    _ = addr.toNat / 4 := by rw [Nat.and_two_pow_sub_one_eq_mod, Nat.mod_eq_of_lt hk]

/-- The reserved offsets (20_memory R68): the word at 0x94, and every word from 0xA0 on. -/
theorem windowReg_eq_reserved {addr : BitVec 8} (h : addr.toNat / 4 = 37 ∨ 40 ≤ addr.toNat / 4) :
    windowReg addr = .reserved := by
  simp (disch := omega) only [windowReg, dif_neg, if_neg]

theorem windowReg_result : windowReg 0x90#8 = .result := by decide

/-- Settles O47: the map is read off the offsets, which count by their words only. -/
theorem windowMap : Obligations.WindowMap := by
  refine ⟨by decide, by decide, by decide, by decide, by decide, windowReg_result, by decide, windowReg_cmd,
    windowReg_status, fun k hlo hhi => ?_, fun addr => windowReg_congr (and_0xFC_div_four addr).symm,
    fun s addr j hj => ?_⟩
  · have hk : (BitVec.ofNat 8 k).toNat = k := Nat.mod_eq_of_lt (by omega)
    exact windowReg_eq_reserved (by omega)
  · simp only [State.windowByte, BitVec.getLsbD_extractLsb', hj, decide_true, Bool.true_and]

/-- Settles O48: at a reserved offset an access reaches no register. -/
theorem reservedOffsets : Obligations.ReservedOffsets := by
  intro s addr v h
  have hr : windowReg addr = .reserved := windowReg_eq_reserved (by omega)
  simp only [State.hostRead, State.hostWrite, hr]
  exact ⟨rfl, rfl⟩

/-! ### Writes while busy -/

/-- Settles O51, by the register the write reaches. -/
theorem busyWritesAreDropped : Obligations.BusyWritesAreDropped := by
  intro s addr v hbusy
  refine ⟨?_, fun ha => ?_, ?_⟩
  · rintro (ha | ⟨d, ha⟩) <;> rw [State.hostWrite, ha]
    · exact writeReg_busy_cmd s v hbusy
    · exact writeReg_busy_data s d v hbusy
  · rw [State.hostWrite, ha, State.writeReg]
  · rintro (ha | ha) <;> rw [State.hostWrite, ha, State.writeReg]

/-! ### The write-1-to-clear bits -/

/-- ERR and OVR stand in STATUS as bits 8 and 9 over the other fields (10_state R40). -/
theorem statusWord_eq_or (busy degen err ovr : Bool) (code : CompletionCode) :
    statusWord busy ⟨degen, code, err, ovr⟩ = statusWord busy ⟨degen, code, false, false⟩ |||
      (if err then BitVec.twoPow 32 8 else 0#32) ||| (if ovr then BitVec.twoPow 32 9 else 0#32) := by
  cases code <;> revert busy degen err ovr <;> decide

/-- Away from bits 8 and 9, STATUS does not depend on ERR and OVR. -/
theorem statusWord_getLsbD_other (busy : Bool) (st : Status) {n : Nat} (h8 : n ≠ 8) (h9 : n ≠ 9) :
    (statusWord busy st).getLsbD n = (statusWord busy ⟨st.degen, st.code, false, false⟩).getLsbD n := by
  have hbit (b : Bool) {i : Nat} (h : n ≠ i) : (if b then BitVec.twoPow 32 i else 0#32).getLsbD n = false := by
    cases b <;> simp [BitVec.getLsbD_twoPow, Ne.symm h]
  rw [statusWord_eq_or, BitVec.getLsbD_or, BitVec.getLsbD_or, hbit _ h8, hbit _ h9, Bool.or_false, Bool.or_false]

/-- A host write of `v` clears bits 8 and 9 of STATUS where `v` has a 1 there (20_memory R70). -/
theorem statusWord_atHostWrite_getLsbD (busy : Bool) (st : Status) (v : Word) (n : Nat) :
    (statusWord busy (st.atHostWrite v)).getLsbD n =
      ((statusWord busy st).getLsbD n && !((n == 8 || n == 9) && v.getLsbD n)) := by
  obtain ⟨-, -, -, -, herr, hovr, -⟩ := statusWord_fields busy st.degen st.err st.ovr st.code
  obtain ⟨-, -, -, -, herr', hovr', -⟩ :=
    statusWord_fields busy st.degen (st.atHostWrite v).err (st.atHostWrite v).ovr st.code
  by_cases h8 : n = 8
  · subst h8
    exact herr'.trans (congrArg (· && !v.getLsbD 8) herr.symm)
  by_cases h9 : n = 9
  · subst h9
    exact hovr'.trans (congrArg (· && !v.getLsbD 9) hovr.symm)
  · rw [statusWord_getLsbD_other busy _ h8 h9, statusWord_getLsbD_other busy st h8 h9]
    simp [h8, h9]

/-- Settles O52: RESULT ignores the write, and STATUS loses the bits that are written 1. -/
theorem readOnlyAndWriteOneToClear : Obligations.ReadOnlyAndWriteOneToClear := by
  intro s v
  obtain ⟨-, -, h32, -, -, -, hhigh, -, -⟩ := statusLayout s
  refine ⟨?_, fun n _ => ?_, ?_, h32, hhigh⟩
  · rw [State.hostWrite, windowReg_result, State.writeReg]
  · simp only [State.hostWrite, State.hostRead, windowReg_status]
    exact statusWord_atHostWrite_getLsbD s.busy s.status v n
  · rw [State.hostWrite, windowReg_status, State.writeReg]

end Sys2Proof.Proofs
end

section
/-! PROOFS. The encoding: a command word is its six fields, a row of the match and mask table selects the words whose fields
have its opcode and are well-formed, and `encode` fills the fields that `decode` reads. -/

namespace Sys2Proof.Proofs

open Sys2Proof.Machine Sys2Proof.Laws

/-! ### A command word is its fields -/

/-- The six fields cover the word (30_encoding R81). -/
theorem ofWord_injective : Function.Injective Fields.ofWord := by
  intro w v h
  simp only [Fields.ofWord, Fields.mk.injEq, ← BitVec.toNat_inj, BitVec.extractLsb'_toNat, Nat.shiftRight_eq_div_pow] at h ⊢
  omega

/-- Masking a word masks its fields. -/
theorem ofWord_and (w m : Word) :
    Fields.ofWord (w &&& m) =
      ⟨(Fields.ofWord w).op &&& (Fields.ofWord m).op, (Fields.ofWord w).rd &&& (Fields.ofWord m).rd,
        (Fields.ofWord w).rs1 &&& (Fields.ofWord m).rs1, (Fields.ofWord w).rs2 &&& (Fields.ofWord m).rs2,
        (Fields.ofWord w).rs3 &&& (Fields.ofWord m).rs3, (Fields.ofWord w).res &&& (Fields.ofWord m).res⟩ := by
  simp only [Fields.ofWord, BitVec.extractLsb'_and]

/-- The fields of an opcode and four operand numbers, RES being 0. -/
def fieldsOfNat (op rd rs1 rs2 rs3 : Nat) : Fields :=
  ⟨BitVec.ofNat 8 op, BitVec.ofNat 4 rd, BitVec.ofNat 4 rs1, BitVec.ofNat 4 rs2, BitVec.ofNat 4 rs3, 0#8⟩

/-- The parts of an assembled word do not overlap, so that the word is their sum (30_encoding R89). -/
theorem commandWord_toNat {op rd rs1 rs2 rs3 : Nat} (hop : op < 256) (hrd : rd < 16) (hrs1 : rs1 < 16) (hrs2 : rs2 < 16)
    (hrs3 : rs3 < 16) :
    (commandWord op rd rs1 rs2 rs3).toNat = op + rd * 2 ^ 8 + rs1 * 2 ^ 12 + rs2 * 2 ^ 16 + rs3 * 2 ^ 20 := by
  have hor {a b : Nat} (k : Nat) (ha : a < 2 ^ k) : a ||| b * 2 ^ k = a + b * 2 ^ k := by
    rw [← Nat.shiftLeft_eq, Nat.lor_comm, ← Nat.shiftLeft_add_eq_or_of_lt ha, Nat.add_comm]
  simp (disch := omega) only [commandWord, BitVec.toNat_or, BitVec.toNat_shiftLeft, BitVec.toNat_ofNat, Nat.shiftLeft_eq,
    Nat.mod_eq_of_lt, hor 8, hor 12, hor 16, hor 20]

/-- An assembled word has the fields it was assembled from. -/
theorem ofWord_commandWord {op rd rs1 rs2 rs3 : Nat} (hop : op < 256) (hrd : rd < 16) (hrs1 : rs1 < 16) (hrs2 : rs2 < 16)
    (hrs3 : rs3 < 16) : Fields.ofWord (commandWord op rd rs1 rs2 rs3) = fieldsOfNat op rd rs1 rs2 rs3 := by
  simp only [Fields.ofWord, fieldsOfNat, Fields.mk.injEq, ← BitVec.toNat_inj, BitVec.extractLsb'_toNat, BitVec.toNat_ofNat,
    Nat.shiftRight_eq_div_pow, commandWord_toNat hop hrd hrs1 hrs2 hrs3]
  omega

/-! ### The rows of the table by their formats -/

/-- The opcode a row selects: its match value holds nothing else (30_encoding R86). -/
def rowOpcode (r : OpcodeRow) : BitVec 8 := (Fields.ofWord r.matchBits).op

/-- The bits of an operand field that its use makes 0 (30_encoding R82). -/
def useMask : FieldUse → BitVec 4
  | .f => 0
  | .p => 8
  | .zero => 15

/-- The mask of a format, field by field: all of OP and RES, and of an operand field what its use makes 0. -/
def formatMask (fmt : Format) : Fields :=
  ⟨0xFF, useMask fmt.uses.1, useMask fmt.uses.2.1, useMask fmt.uses.2.2.1, useMask fmt.uses.2.2.2, 0xFF⟩

theorem allows_iff_and_useMask (u : FieldUse) (x : BitVec 4) : u.allows x = true ↔ x &&& useMask u = 0 := by
  cases u <;> revert x <;> decide

/-- Every row has an assigned opcode for its match value and the mask of that opcode's format. -/
theorem row_matchBits_and_mask : ∀ r ∈ opcodeRows,
    Fields.ofWord r.matchBits = ⟨rowOpcode r, 0, 0, 0, 0, 0⟩ ∧
      (Format.ofOpcode (rowOpcode r)).map formatMask = some (Fields.ofWord r.mask) := by decide

/-- No two rows have one opcode. -/
theorem rowOpcode_nodup : (opcodeRows.map rowOpcode).Nodup := by decide

theorem eq_of_rowOpcode_eq {r q : OpcodeRow} (hr : r ∈ opcodeRows) (hq : q ∈ opcodeRows) (h : rowOpcode r = rowOpcode q) :
    r = q := List.inj_on_of_nodup_map rowOpcode_nodup hr hq h

/-- Every assigned opcode has a row. -/
theorem exists_row_of_ofOpcode_isSome : ∀ op : BitVec 8, (Format.ofOpcode op).isSome = true →
    ∃ r ∈ opcodeRows, rowOpcode r = op := by decide

/-- Well-formed fields, by the format of their opcode. -/
theorem wellFormed_iff (x : Fields) :
    x.wellFormed = true ↔ ∃ fmt, Format.ofOpcode x.op = some fmt ∧ fmt.uses.1.allows x.rd = true ∧
      fmt.uses.2.1.allows x.rs1 = true ∧ fmt.uses.2.2.1.allows x.rs2 = true ∧ fmt.uses.2.2.2.allows x.rs3 = true ∧
      x.res = 0#8 := by
  unfold Fields.wellFormed
  cases Format.ofOpcode x.op <;> simp [and_assoc]

/-- A row selects the words of its opcode that are well-formed: the mask checks just what the format says. -/
theorem selects_iff {r : OpcodeRow} (hr : r ∈ opcodeRows) (w : Word) :
    r.selects w = true ↔ rowOpcode r = (Fields.ofWord w).op ∧ (Fields.ofWord w).wellFormed = true := by
  obtain ⟨hmatch, hmask⟩ := row_matchBits_and_mask r hr
  obtain ⟨fmt, hfmt, hmask⟩ := Option.map_eq_some_iff.mp hmask
  rw [OpcodeRow.selects, beq_iff_eq, ← ofWord_injective.eq_iff, ofWord_and, hmatch, ← hmask, formatMask, Fields.mk.injEq,
    wellFormed_iff]
  simp only [← allows_iff_and_useMask]
  have hall (y : BitVec 8) : y &&& 0xFF = y := BitVec.and_allOnes
  rw [hall, hall]
  constructor
  · rintro ⟨hop, h⟩
    exact ⟨hop.symm, fmt, hop ▸ hfmt, h⟩
  · rintro ⟨hop, fmt', hfmt', h⟩
    obtain rfl : fmt = fmt' := Option.some.inj (hfmt.symm.trans (hop ▸ hfmt'))
    exact ⟨hop.symm, h⟩

/-- What the decoder does: it accepts the well-formed words, and reads each by the row of its opcode (30_encoding R88). -/
theorem decode_eq_some_iff (w : Word) (i : Instr) :
    decode w = some i ↔ (Fields.ofWord w).wellFormed = true ∧
      ∃ r ∈ opcodeRows, rowOpcode r = (Fields.ofWord w).op ∧ r.build (Fields.ofWord w) = i := by
  rw [decode, Option.map_eq_some_iff]
  constructor
  · rintro ⟨r, hfind, hbuild⟩
    have hr := List.mem_of_find?_eq_some hfind
    obtain ⟨hop, hwf⟩ := (selects_iff hr w).mp (List.find?_some (p := fun r : OpcodeRow => r.selects w) hfind)
    exact ⟨hwf, r, hr, hop, hbuild⟩
  · rintro ⟨hwf, r, hr, hop, hbuild⟩
    have hsome : (opcodeRows.find? (·.selects w)).isSome = true :=
      List.find?_isSome.mpr ⟨r, hr, (selects_iff hr w).mpr ⟨hop, hwf⟩⟩
    obtain ⟨q, hfind⟩ := Option.isSome_iff_exists.mp hsome
    have hq := List.mem_of_find?_eq_some hfind
    obtain ⟨hqop, -⟩ := (selects_iff hq w).mp (List.find?_some (p := fun r : OpcodeRow => r.selects w) hfind)
    obtain rfl := eq_of_rowOpcode_eq hr hq (hop.trans hqop.symm)
    exact ⟨r, hfind, hbuild⟩

/-! ### The fields of a command -/

/-- The fields of the word of a command (30_encoding R81, R82, R85). -/
def encodedFields : Instr → Fields
  | .ladd rd rs1 rs2 => fieldsOfNat 0x01 rd rs1 rs2 0
  | .laddc rd rs1 rs2 => fieldsOfNat 0x02 rd rs1 rs2 0
  | .lsub rd rs1 rs2 => fieldsOfNat 0x03 rd rs1 rs2 0
  | .lsubb rd rs1 rs2 => fieldsOfNat 0x04 rd rs1 rs2 0
  | .fcmp rs1 rs2 => fieldsOfNat 0x10 0 rs1 rs2 0
  | .fval rs1 => fieldsOfNat 0x11 0 rs1 0 0
  | .fadd rd rs1 rs2 => fieldsOfNat 0x12 rd rs1 rs2 0
  | .fsub rd rs1 rs2 => fieldsOfNat 0x13 rd rs1 rs2 0
  | .fmul rd rs1 rs2 => fieldsOfNat 0x14 rd rs1 rs2 0
  | .ffromint rd => fieldsOfNat 0x15 rd 0 0 0
  | .ftoint rs1 => fieldsOfNat 0x16 0 rs1 0 0
  | .pdbl rd rs1 => fieldsOfNat 0x20 rd rs1 0 0
  | .padd rd rs1 rs2 rs3 => fieldsOfNat 0x21 rd rs1 rs2 rs3
  | .pladder rd rs1 rs2 => fieldsOfNat 0x22 rd rs1 rs2 0

theorem ofWord_encode (i : Instr) : Fields.ofWord (encode i) = encodedFields i := by
  cases i <;> exact ofWord_commandWord (by decide) (by omega) (by omega) (by omega) (by omega)

/-! ### Operand fields and register indices -/

theorem fIdx_ofFin (i : FIdx) : fIdx (BitVec.ofFin i) = i := rfl

theorem pIdx_ofNat (k : PIdx) : pIdx (BitVec.ofNat 4 k) = k := by revert k; decide

theorem ofNat_fIdx (x : BitVec 4) : BitVec.ofNat 4 (fIdx x) = x := BitVec.ofNat_toNat 4 x |>.trans (BitVec.setWidth_eq x)

/-- A point field below 8 is kept by the index it names. -/
theorem ofNat_pIdx {x : BitVec 4} (h : FieldUse.p.allows x = true) : BitVec.ofNat 4 (pIdx x) = x := by revert x; decide

theorem allows_f (x : BitVec 4) : FieldUse.f.allows x = true := rfl

theorem allows_p_ofNat (k : PIdx) : FieldUse.p.allows (BitVec.ofNat 4 k) = true := by revert k; decide

theorem allows_zero_iff (x : BitVec 4) : FieldUse.zero.allows x = true ↔ x = 0#4 := beq_iff_eq

/-- The format of each command allows the fields of the command. -/
theorem encodedFields_wellFormed (i : Instr) : (encodedFields i).wellFormed = true := by
  rw [wellFormed_iff]
  cases i <;> refine ⟨_, rfl, ?_⟩ <;>
    simp [encodedFields, fieldsOfNat, Format.uses, allows_f, allows_p_ofNat, allows_zero_iff]

/-- Each command has a row, which builds it from its fields. -/
theorem exists_row_build_encodedFields (i : Instr) :
    ∃ r ∈ opcodeRows, rowOpcode r = (encodedFields i).op ∧ r.build (encodedFields i) = i := by
  cases i <;>
    simp [opcodeRows, limbRows, fieldRows, curveRows, rowOpcode, Fields.ofWord, encodedFields, fieldsOfNat, fIdx_ofFin,
      pIdx_ofNat]

/-- A row builds a command that has the fields it was built from: no bit is dropped. -/
theorem encodedFields_build {r : OpcodeRow} (hr : r ∈ opcodeRows) {x : Fields} (hop : rowOpcode r = x.op)
    (hwf : x.wellFormed = true) : encodedFields (r.build x) = x := by
  -- A field the row does not read is 0 by its format, and a point field is below 8, so the index it names is the field.
  obtain ⟨fmt, hfmt, hrd, hrs1, hrs2, hrs3, hres⟩ := (wellFormed_iff x).mp hwf
  obtain ⟨op, rd, rs1, rs2, rs3, res⟩ := x
  dsimp only at *
  subst hop hres
  simp only [opcodeRows, limbRows, fieldRows, curveRows, List.cons_append, List.nil_append, List.mem_cons, List.not_mem_nil,
    or_false] at hr
  rcases hr with rfl | rfl | rfl | rfl | rfl | rfl | rfl | rfl | rfl | rfl | rfl | rfl | rfl | rfl
  all_goals
    obtain rfl := Option.some.inj hfmt
    simp only [Format.uses, allows_zero_iff] at hrd hrs1 hrs2 hrs3
    simp only [encodedFields, fieldsOfNat, ofNat_fIdx, ofNat_pIdx, hrd, hrs1, hrs2, hrs3]
    rfl

/-! ### The statements -/

/-- Settles O1: the row of a command builds it from its fields, which are well-formed. -/
theorem decodeInvertsEncode : Obligations.DecodeInvertsEncode := by
  intro i
  rw [decode_eq_some_iff, ofWord_encode]
  exact ⟨encodedFields_wellFormed i, exists_row_build_encodedFields i⟩

/-- Settles O2: the word and the word of the command it decodes to have the same fields. -/
theorem encodeInvertsDecode : Obligations.EncodeInvertsDecode := by
  intro w i h
  obtain ⟨hwf, r, hr, hop, rfl⟩ := (decode_eq_some_iff w i).mp h
  exact ofWord_injective ((ofWord_encode _).trans (encodedFields_build hr hop hwf))

/-- Settles O3: a well-formed word has an assigned opcode, so there is a row that reads it. -/
theorem decodesExactlyWellFormedWords : Obligations.DecodesExactlyWellFormedWords := by
  intro w
  rw [Bool.eq_iff_iff, Option.isSome_iff_exists]
  constructor
  · rintro ⟨i, h⟩
    exact ((decode_eq_some_iff w i).mp h).1
  · intro hwf
    obtain ⟨fmt, hfmt, -⟩ := (wellFormed_iff _).mp hwf
    obtain ⟨r, hr, hop⟩ := exists_row_of_ofOpcode_isSome _ (Option.isSome_of_eq_some hfmt)
    exact ⟨_, (decode_eq_some_iff w _).mpr ⟨hwf, r, hr, hop, rfl⟩⟩

/-- Settles O4: two rows that select one word have its opcode, so they are one row. -/
theorem opcodeTableRowsDisjoint : Obligations.OpcodeTableRowsDisjoint := by
  refine ⟨rfl, fun w r _ => beq_iff_eq, fun w r hr q hq hrw hqw => ?_⟩
  obtain ⟨hrop, -⟩ := (selects_iff hr w).mp hrw
  obtain ⟨hqop, -⟩ := (selects_iff hq w).mp hqw
  rw [eq_of_rowOpcode_eq hr hq (hrop.trans hqop.symm)]

/-- Settles O5: each example word is the word of its command. -/
theorem assemblerExampleWordsDecode : Obligations.AssemblerExampleWordsDecode :=
  ⟨decodeInvertsEncode (.ladd 2 0 1), decodeInvertsEncode (.fmul 2 0 1), decodeInvertsEncode (.fcmp 0 1),
    decodeInvertsEncode (.fval 3), decodeInvertsEncode (.ftoint 3), decodeInvertsEncode (.ffromint 4),
    decodeInvertsEncode (.pdbl 1 0), decodeInvertsEncode (.padd 3 1 2 0), decodeInvertsEncode (.pladder 1 0 5)⟩

end Sys2Proof.Proofs
end

section
/-! PROOFS. A command changes no byte of the window outside its destinations and STATUS. -/

namespace Sys2Proof.Proofs

open Sys2Proof.Machine Sys2Proof.Laws

/-! ### What the window shows after a commit -/

/-- A commit changes what STATUS reads, and no other register. -/
theorem readReg_commit (s : State) (c : CompletionCode) (z : Bool) {r : WindowReg} (hr : r ≠ .status) :
    (s.commit c z).readReg r = s.readReg r := by
  cases r with
  | status => exact (hr rfl).elim
  | data d => rfl
  | result | cmd | reserved => rfl

/-- A write of `F[i]` changes its two words only. -/
theorem readReg_writeF (s : State) (i : Fin 16) (p : Pair) {r : WindowReg} (hr : r ∉ (fWords i).map .data) :
    (s.writeF i p).readReg r = s.readReg r := by
  cases r with
  | data d =>
    cases d with
    | f j h =>
      have hij : j ≠ i := by
        rintro rfl
        cases h <;> simp [fWords] at hr
      simp only [State.readReg, Bank.word, writeF_data, setF_freg_other _ _ hij]
    | ir h | a24 h => rfl
  | result | cmd | status | reserved => rfl

/-- A write of `P[k]` changes its four words only. -/
theorem readReg_writePoint (s : State) (k : Fin 8) (q : Point) {r : WindowReg} (hr : r ∉ (pWords k).map .data) :
    (s.writePoint k q).readReg r = s.readReg r := by
  rw [pWords, List.map_append, List.mem_append, not_or] at hr
  rw [State.writePoint, readReg_writeF _ _ _ hr.2, readReg_writeF _ _ _ hr.1]

/-- A write of IR changes its two words only. -/
theorem readReg_writeIR (s : State) (n : Nat) {r : WindowReg} (hr : r ∉ [.data (.ir .lo), .data (.ir .hi)]) :
    (s.writeIR n).readReg r = s.readReg r := by
  cases r with
  | data d =>
    cases d with
    | ir h => cases h <;> simp at hr
    | f j h | a24 h => rfl
  | result | cmd | status | reserved => rfl

theorem readReg_writeResult (s : State) (w : Word) {r : WindowReg} (hr : r ∉ [.result]) :
    (s.writeResult w).readReg r = s.readReg r := by
  cases r with
  | result => simp at hr
  | data d => rfl
  | cmd | status | reserved => rfl

/-- A register that is neither a destination of a command nor STATUS reads after it as before. -/
theorem readReg_exec {i : Instr} {s t : State} (h : exec i s = .next t) {r : WindowReg} (hd : r ∉ destinations i)
    (hr : r ≠ .status) : t.readReg r = s.readReg r := by
  rcases exec_shape i s with ⟨c, -, he⟩ | ⟨rd, p, hdest, he⟩ | ⟨rd, q, hdest, -, he⟩ | ⟨rd, rs1, rs2, rfl, -, he⟩ |
    ⟨w, -, hdest, he⟩ | ⟨rs1, n, rfl, he⟩ <;> obtain rfl := Host.Outcome.next.inj (h.symm.trans he) <;>
    rw [readReg_commit _ _ _ hr]
  · exact readReg_writeF s rd p (hdest ▸ hd)
  · exact readReg_writePoint s rd q (hdest ▸ hd)
  · exact readReg_writePoint s rd ladderZero hd
  · exact readReg_writeResult s w (hdest ▸ hd)
  · exact readReg_writeIR s n hd

/-- Settles O44: a byte of the window is a byte of the register its offset reaches. -/
theorem commandsChangeOnlyDestinations : Obligations.CommandsChangeOnlyDestinations := by
  intro i s t addr h hd hr
  rw [State.windowByte, State.windowByte, State.hostRead, State.hostRead, readReg_exec h hd hr]

end Sys2Proof.Proofs
end

section
/-! PROOFS. The products and differences of the datapath as residues, and the pseudo-commands that use them. -/

namespace Sys2Proof.Proofs

open Sys2Proof.Machine Sys2Proof.Laws

/-! ### The multiplier and the subtractor -/

/-- Karatsuba's middle term is the sum of the cross products (41_field R124). -/
theorem mulM_eq (a b : Pair) : mulM a b = a.hi.toNat * b.lo.toNat + a.lo.toNat * b.hi.toNat := by
  have hs : mulS a b = mulH a b + mulL a b + (a.hi.toNat * b.lo.toNat + a.lo.toNat * b.hi.toNat) := by
    rw [mulS, mulH, mulL]
    ring
  rw [mulM, hs]
  omega

/-- The folded value T differs from the product by a multiple of p, since 2^62 is 2 modulo p (41_field R125). -/
theorem val_mul_val_eq (a b : Pair) :
    val a * val b = mulT a b + Config.p * (2 * (mulH a b + mulM a b / Config.limbBase)) := by
  have hm := Nat.div_add_mod (mulM a b) Config.limbBase
  have hprod : val a * val b = Config.limbBase * Config.limbBase * mulH a b + Config.limbBase * mulM a b + mulL a b := by
    rw [mulM_eq, val, val, mulH, mulL]
    ring
  rw [hprod, mulT]
  generalize mulH a b = h, mulL a b = l, mulM a b = m at *
  rw [limbBase_eq, p_eq] at *
  omega

/-- `mulCore` is the product modulo p, whatever its operands are (41_field R126). -/
theorem mulCore_eq_fe (a b : Pair) : mulCore a b = fe (val a * val b % Config.p) := by
  rw [mulCore, val_mul_val_eq, Nat.add_mul_mod_self_left]

/-- `subCore` adds p minus its second operand (41_field R123, R133). -/
theorem subCore_eq_fe {a b : Pair} (ha : Canonical a) (hb : Canonical b) :
    subCore a b = fe ((val a + (Config.p - val b)) % Config.p) := by
  obtain ⟨-, hal, hap⟩ := ha
  obtain ⟨-, hnl, hn⟩ := negCore_limbs hb
  rw [subCore, addCore_eq_fe hal hnl (by omega), hn]

/-! ### The pseudo-commands -/

/-- A field command on valid operands commits its function of them. -/
theorem fieldCommand_commitsF {s : State} (f : Pair → Pair → Pair) (rd : Fin 16) {rs1 rs2 : Fin 16}
    (h1 : Canonical (s.feOperand rs1)) (h2 : Canonical (s.feOperand rs2)) :
    ∃ t, s.fieldCommand f rd rs1 rs2 = .next t ∧ s.CommitsF t rd (f (s.feOperand rs1) (s.feOperand rs2)) := by
  refine ⟨_, ?_, commitsF_writeF s rd _⟩
  simp only [State.fieldCommand, (validFE_iff _).mpr h1, (validFE_iff _).mpr h2, Bool.and_self, if_true, State.complete]

/-- Settles O57: with 0 for its first operand FSUB subtracts from p, and with 1 for its second FMUL returns its first. -/
theorem pseudoCommands : Obligations.PseudoCommands := by
  intro s fd fa fz fo ha
  refine ⟨rfl, rfl, rfl, ?_, fun hz => ?_, fun ho => ?_⟩
  · rw [pow_two, ← mulCore_eq_fe]
    exact fieldCommand_commitsF mulCore fd ha ha
  · have hz' : Canonical (s.feOperand fz) := hz ▸ canonical_fe 0 p_pos
    have hsub : subCore (s.feOperand fz) (s.feOperand fa) = fe ((Config.p - val (s.feOperand fa)) % Config.p) := by
      rw [subCore_eq_fe hz' ha, hz, show val ⟨0#32, 0#32⟩ = 0 from rfl, Nat.zero_add]
    rw [← hsub]
    exact fieldCommand_commitsF subCore fd hz' ha
  · have ho' : Canonical (s.feOperand fo) := ho ▸ canonical_fe 1 (by decide)
    have hmul : mulCore (s.feOperand fa) (s.feOperand fo) = s.feOperand fa := by
      obtain ⟨-, hlo, hlt⟩ := ha
      rw [mulCore_eq_fe, ho, show val ⟨0#32, 1#32⟩ = 1 from rfl, Nat.mul_one, Nat.mod_eq_of_lt hlt, fe_val _ hlo]
    have h := fieldCommand_commitsF mulCore fd ha ho'
    rwa [hmul] at h

end Sys2Proof.Proofs
end

section
/-! PROOFS. The host's pseudo-operations: the load sequences, and ISSUE followed by WAIT. -/

namespace Sys2Proof.Proofs

open Sys2Proof.Machine Sys2Proof.Laws

/-! ### One access of the host -/

theorem portCycle_write (s : State) (off : BitVec 8) (v : Word) :
    s.portCycle (PortIn.write off v) = s.writeReg (windowReg off) v := rfl

/-- A write that is the next event on an idle machine stores the word of a data register. -/
theorem step_memWrite_data {s : State} {off : BitVec 8} {v : Word} {rest : List Event} {d : DataWord}
    (hidle : s.busy = false) (hoff : windowReg off = .data d) (ha : s.agenda = memWrite off v :: rest) :
    step s = .next (withPort { s with data := s.data.setWord d v } none rest) := by
  rw [step_host s _ rest ha, portCycle_write, hoff, writeReg_idle_data _ _ _ (by rwa [advance_busy]),
    advance_eq_withPort, ha]
  rfl

/-- A write of CMD that is the next event on an idle machine issues the word. -/
theorem step_memWrite_cmd {s : State} {w : Word} {rest : List Event} (hidle : s.busy = false)
    (ha : s.agenda = memWrite 0x98#8 w :: rest) : step s = .next (withPort (s.issue w) none rest) := by
  rw [step_host s _ rest ha, portCycle_write, windowReg_cmd, writeReg_idle_cmd _ _ (by rwa [advance_busy]),
    advance_eq_withPort, ha]
  rfl

theorem hostRead_status (s : State) : s.hostRead 0x9C#8 = s.statusWord := by
  rw [State.hostRead, windowReg_status, State.readReg]

/-- A read of STATUS that is the next event changes the port only. -/
theorem step_memRead_status (s : State) (r : Option Word) (rest : List Event) :
    step (withPort s r (memRead 0x9C#8 :: rest)) = .next (withPort s (some s.statusWord) rest) := by
  rw [step_host _ _ rest rfl, portCycle_read _ _ rfl rfl rfl, ← hostRead_status]
  rfl

/-! ### The load sequences -/

/-- Two writes that are the next events on an idle machine store two words of the data registers. -/
theorem run_two_memWrites {s : State} {off off' : BitVec 8} {v v' : Word} {rest : List Event} {d d' : DataWord}
    (hidle : s.busy = false) (hoff : windowReg off = .data d) (hoff' : windowReg off' = .data d')
    (ha : s.agenda = memWrite off v :: memWrite off' v' :: rest) :
    Host.Core.run core 2 s = .next (withPort { s with data := (s.data.setWord d v).setWord d' v' } none rest) :=
  calc Host.Core.run core 2 s
      = Host.Core.run core 1 (withPort { s with data := s.data.setWord d v } none (memWrite off' v' :: rest)) :=
        run_of_next 1 (step_memWrite_data hidle hoff ha)
    _ = .next (withPort { s with data := (s.data.setWord d v).setWord d' v' } none rest) :=
        run_of_next 0 (step_memWrite_data hidle hoff' rfl)

/-- Both words of a field register, written one by one, are the register (30_encoding R91). -/
theorem setWord_f_lo_hi (b : Bank) (i : Fin 16) (p : Pair) :
    (b.setWord (.f i .lo) p.lo).setWord (.f i .hi) p.hi = b.setF i (Reg.put p) := by
  simp only [Bank.setWord, setF_freg_self, Reg.setHalf]
  simp only [Bank.setF, Vector.set_set]
  rfl

theorem windowReg_f_lo (i : Fin 16) : windowReg (BitVec.ofNat 8 (8 * i.val)) = .data (.f i .lo) := by revert i; decide
theorem windowReg_f_hi (i : Fin 16) : windowReg (BitVec.ofNat 8 (8 * i.val + 4)) = .data (.f i .hi) := by revert i; decide

/-- A 64-bit integer is read back from its words (10_state R36). -/
theorem int64_int64Pair {v : Nat} (h : v < 2 ^ 64) : int64 (int64Pair v) = v := by
  simp only [int64, int64Pair, BitVec.toNat_ofNat]
  omega

/-- Settles O58: the two writes of each sequence reach the two words of one register. -/
theorem loadSequencesLoad : Obligations.LoadSequencesLoad := by
  intro s rest hidle
  refine ⟨fun i v _ ha => ?_, fun v hv ha => ?_, fun v _ ha => ?_⟩
  · rw [← setWord_f_lo_hi]
    exact run_two_memWrites hidle (windowReg_f_lo i) (windowReg_f_hi i) ha
  · exact ⟨_, run_two_memWrites hidle (d := .ir .lo) (d' := .ir .hi) (by decide) (by decide) ha, int64_int64Pair hv, rfl⟩
  · exact run_two_memWrites hidle (d := .a24 .lo) (d' := .a24 .hi) (by decide) (by decide) ha

/-! ### ISSUE and WAIT -/

/-- Any number of polls of STATUS leaves the machine as it is, but for the port. -/
theorem run_polls (s : State) (r : Option Word) (polls k : Nat) (rest : List Event) :
    ∃ r', Host.Core.run core (polls + k) (withPort s r (List.replicate polls (memRead 0x9C#8) ++ rest)) =
      Host.Core.run core k (withPort s r' rest) := by
  induction polls generalizing r with
  | zero => exact ⟨r, by rw [Nat.zero_add]; rfl⟩
  | succ n ih =>
    obtain ⟨r', h⟩ := ih (some s.statusWord)
    refine ⟨r', ?_⟩
    rw [Nat.succ_add, List.replicate_succ, List.cons_append, run_of_next _ (step_memRead_status s r _), h]

/-- A commit that is the next event carries the port and the agenda along. -/
theorem step_withPort_commit {s u : State} {p : Pending} {i : Instr} (hp : s.pending = some p) (hi : decode p.word = some i)
    (hu : exec i s = .next u) (r : Option Word) (rest : List Event) :
    step (withPort s r (.commit :: rest)) = .next (withPort u none rest) := by
  have hs : (withPort s r (.commit :: rest)).commitNext := .inr rfl
  rw [step_of_commitNext_of_decode hs hp hi]
  exact exec_withPort i s u none rest hu

/-- Settles O59: the issue, the polls, the commit and the last poll are taken off the agenda one by one. -/
theorem issueWaitRunsCommand : Obligations.IssueWaitRunsCommand := by
  intro s w i polls rest hidle hi ha
  obtain ⟨u, hu⟩ := exec_next i (s.issue w)
  have hbusy : u.busy = false := by rw [State.busy, (exec_anyCommit hu).pending, Option.isSome_none]
  obtain ⟨h0, -⟩ := statusLayout u
  rw [hostRead_status] at h0
  refine ⟨u, hu, hbusy, h0.trans hbusy, ?_⟩
  obtain ⟨r, hpolls⟩ := run_polls (s.issue w) none polls 2 (.commit :: memRead 0x9C#8 :: rest)
  calc Host.Core.run core (polls + 3) s
      = Host.Core.run core (polls + 2)
          (withPort (s.issue w) none (List.replicate polls (memRead 0x9C#8) ++ .commit :: memRead 0x9C#8 :: rest)) :=
        run_of_next (polls + 2) (step_memWrite_cmd hidle (by rw [ha]; simp [issueWord, waitDone]))
    _ = Host.Core.run core 2 (withPort (s.issue w) r (.commit :: memRead 0x9C#8 :: rest)) := hpolls
    _ = Host.Core.run core 1 (withPort u none (memRead 0x9C#8 :: rest)) :=
        run_of_next 1 (step_withPort_commit (issue_pending s w) hi hu r _)
    _ = .next (withPort u (some u.statusWord) rest) := run_of_next 0 (step_memRead_status u none rest)

end Sys2Proof.Proofs
end

section
/-! PROOFS. The limb primitives as integer arithmetic (40_limb R100 to R103), and the limb commands that commit them (R104 to
R108). -/

namespace Sys2Proof.Proofs

open Sys2Proof.Machine Sys2Proof.Laws

/-! ### The primitives -/

/-- The sum with its carry is exact (40_limb R101). -/
theorem addLimbWithCarry_exact (a b : Nat) :
    a + b = (addLimbWithCarry a b).2 * 2 ^ 31 + (addLimbWithCarry a b).1 :=
  (Nat.div_add_mod' (a + b) (2 ^ 31)).symm

/-- A difference with its borrow is exact (40_limb R103): a borrow is what the wrapping adds. -/
theorem subLimbWithBorrow_exact {a b : Nat} (ha : a < 2 ^ 31) (hb : b < 2 ^ 31) :
    (a : Int) - b = (subLimbWithBorrow a b).1 - (subLimbWithBorrow a b).2 * 2 ^ 31 := by
  rcases lt_or_ge a b with h | h
  · rw [subLimbWithBorrow_of_lt h]
    omega
  · rw [subLimbWithBorrow_of_le ha h]
    omega

/-- The wrapping difference is the difference modulo 2^31 (40_limb R102). -/
theorem subLimb_eq_emod (a : Nat) {b : Nat} (hb : b < 2 ^ 31) : (subLimb a b : Int) = ((a : Int) - b) % 2 ^ 31 := by
  rw [subLimb, limbBase_eq]
  omega

/-- Adding the subtrahend back undoes the wrapping (40_limb R109). -/
theorem addLimb_subLimb {a b : Nat} (ha : a < 2 ^ 31) (hb : b < 2 ^ 31) : addLimb (subLimb a b) b = a := by
  rw [addLimb, subLimb, limbBase_eq]
  omega

/-- Settles O18: carry and borrow are exact, and the carry of two limbs is a bit. -/
theorem limbPrimitivesAreExact : Obligations.LimbPrimitivesAreExact := by
  intro a b ha hb
  have hcarry := addLimbWithCarry_exact a b
  have hsum : (addLimbWithCarry a b).1 < 2 ^ 31 := addLimb_lt a b
  have hbit := addLimbWithCarry_snd_le ha hb
  have hdiff := subLimb_eq_emod a hb
  have hborrow : a < b → (subLimb a b : Int) = (a : Int) - b + 2 ^ 31 := by omega
  have hcomm : addLimbWithCarry a b = addLimbWithCarry b a := by rw [addLimbWithCarry, addLimbWithCarry, Nat.add_comm]
  exact ⟨rfl, rfl, rfl, hcarry, by omega, by omega, hdiff, hborrow, hdiff, rfl, subLimbWithBorrow_exact ha hb,
    addLimb_lt a b, subLimb_lt a b, addLimb_subLimb ha hb, rfl, rfl, hcomm⟩

/-! ### The commands -/

/-- A limb command on limb operands commits its function of them (40_limb R104). -/
theorem limbCommand_commitsF {s : State} (f : Nat → Nat → Nat × Nat) (rd : Fin 16) {rs1 rs2 : Fin 16}
    (h1 : (s.limbOperand rs1).toNat < 2 ^ 31) (h2 : (s.limbOperand rs2).toNat < 2 ^ 31) :
    ∃ t, s.limbCommand f rd rs1 rs2 = .next t ∧
      s.CommitsF t rd (limbPair (f (s.limbOperand rs1).toNat (s.limbOperand rs2).toNat).1
        (f (s.limbOperand rs1).toNat (s.limbOperand rs2).toNat).2) := by
  refine ⟨_, ?_, commitsF_writeF s rd _⟩
  simp only [State.limbCommand, (isLimb_iff _).mpr h1, (isLimb_iff _).mpr h2, Bool.and_self, if_true, State.complete]

/-- A carry or a borrow `h` over a limb `l` that was committed to `F[rd]` has the value 2^31·h + l (00_scope R12). -/
theorem val_of_commitsF_limbPair {s t : State} {rd : Fin 16} {h l : Nat} (ht : s.CommitsF t rd (limbPair h l))
    (hh : h ≤ 1) (hl : l < 2147483648) : val (t.data.freg rd).pair = h * 2147483648 + l := by
  obtain ⟨hput, -, -⟩ := ht
  rw [hput, put_pair, val_limbPair h l (by omega) (by omega)]

/-- Settles O27: the pair LADDC commits has the value of the exact sum. -/
theorem laddLaddcComplete : Obligations.LaddLaddcComplete := by
  intro s rd rs1 rs2 h1 h2
  refine ⟨limbCommand_commitsF (fun a b => (0, addLimb a b)) rd h1 h2, ?_⟩
  obtain ⟨t, hexec, ht⟩ :=
    limbCommand_commitsF (fun a b => ((addLimbWithCarry a b).2, (addLimbWithCarry a b).1)) rd h1 h2
  refine ⟨t, hexec, ht, ?_⟩
  rw [val_of_commitsF_limbPair ht (addLimbWithCarry_snd_le h1 h2) (addLimb_lt _ _)]
  exact (addLimbWithCarry_exact _ _).symm

/-- Settles O28: the pair LSUBB commits has the difference plus 2^31 for its low word where there is a borrow, and the borrow
itself counts 2^31 more. -/
theorem lsubLsubbComplete : Obligations.LsubLsubbComplete := by
  intro s rd rs1 rs2 h1 h2
  have hdiff := subLimb_eq_emod (s.limbOperand rs1).toNat h2
  rw [← hdiff, Int.toNat_natCast]
  refine ⟨limbCommand_commitsF (fun a b => (0, subLimb a b)) rd h1 h2, ?_⟩
  obtain ⟨t, hexec, ht⟩ :=
    limbCommand_commitsF (fun a b => ((subLimbWithBorrow a b).2, (subLimbWithBorrow a b).1)) rd h1 h2
  refine ⟨t, hexec, ht, ?_⟩
  rw [val_of_commitsF_limbPair ht (subLimbWithBorrow_snd_le _ _) (subLimb_lt _ _)]
  have hexact := subLimbWithBorrow_exact h1 h2
  push_cast [subLimbWithBorrow] at hexact ⊢
  linarith

end Sys2Proof.Proofs
end

section
/-! PROOFS. The field primitives (41_field R120 to R129): the comparison, the operand check, the adder, the multiplier and the
widths of its intermediates; and the field laws (R137), by the residues that the primitives denote in GF(p). -/

namespace Sys2Proof.Proofs

open Sys2Proof.Machine Sys2Proof.Laws

/-! ### Valid elements by their words and values -/

theorem val_lt_of_canonical {e : Pair} (h : Canonical e) : val e < Config.p := h.2.2
theorem lo_lt_of_canonical {e : Pair} (h : Canonical e) : e.lo.toNat < 2147483648 := h.2.1

/-- The words of a valid element are at most those of p (41_field R129). -/
theorem words_le_of_canonical {e : Pair} (h : Canonical e) : e.hi.toNat ≤ 2 ^ 30 - 1 ∧ e.lo.toNat ≤ 2 ^ 31 - 1 := by
  obtain ⟨-, hlo, hp⟩ := h
  rw [val_eq, p_eq] at hp
  omega

/-- `addCore` of valid elements is the sum modulo p: two values below p sum to less than 2p (41_field R132). -/
theorem addCore_eq_fe_of_canonical {a b : Pair} (ha : Canonical a) (hb : Canonical b) :
    addCore a b = fe ((val a + val b) % Config.p) := by
  have hva := val_lt_of_canonical ha
  have hvb := val_lt_of_canonical hb
  exact addCore_eq_fe (lo_lt_of_canonical ha) (lo_lt_of_canonical hb) (by omega)

/-- `subCore` of valid elements is the integer difference modulo p (41_field R133). -/
theorem subCore_eq_fe_emod {a b : Pair} (ha : Canonical a) (hb : Canonical b) :
    subCore a b = fe (((val a : Int) - val b) % Config.p).toNat := by
  have hvb := val_lt_of_canonical hb
  rw [subCore_eq_fe ha hb]
  rw [p_eq] at *
  congr 1
  omega

/-! ### Comparison and the operand check -/

theorem pair_eq_iff (x y : Pair) : x = y ↔ x.hi.toNat = y.hi.toNat ∧ x.lo.toNat = y.lo.toNat := by
  cases x
  cases y
  simp only [Pair.mk.injEq, ← BitVec.toNat_inj]

/-- The three answers of `rawCompare`, each with the order of the words it stands for (41_field R120). -/
theorem rawCompare_cases (x y : Pair) :
    (rawCompare x y = .less ∧
      (x.hi.toNat < y.hi.toNat ∨ (x.hi.toNat = y.hi.toNat ∧ x.lo.toNat < y.lo.toNat))) ∨
    (rawCompare x y = .greater ∧
      (y.hi.toNat < x.hi.toNat ∨ (x.hi.toNat = y.hi.toNat ∧ y.lo.toNat < x.lo.toNat))) ∨
    (rawCompare x y = .equal ∧ x.hi.toNat = y.hi.toNat ∧ x.lo.toNat = y.lo.toNat) := by
  unfold rawCompare
  repeat' split
  all_goals simp only [reduceCtorEq, true_and, false_and, or_false, false_or]
  all_goals omega

/-- Where both low words are limbs, `rawCompare` orders the values. -/
theorem rawCompare_eq_of_lo_lt {x y : Pair} (hx : x.lo.toNat < 2147483648) (hy : y.lo.toNat < 2147483648) :
    rawCompare x y = if val x = val y then .equal else if val x < val y then .less else .greater := by
  rw [val_eq, val_eq]
  rcases rawCompare_cases x y with ⟨h, hlex⟩ | ⟨h, hlex⟩ | ⟨h, hhi, hlo⟩ <;> rw [h]
  · rw [if_neg (by omega), if_pos (by omega)]
  · rw [if_neg (by omega), if_neg (by omega)]
  · rw [if_pos (by omega)]

/-- Settles O17: one case for each answer of the comparison. -/
theorem rawCompareIsLexicographic : Obligations.RawCompareIsLexicographic := by
  intro x y
  simp only [pair_eq_iff, ← BitVec.toNat_inj, val_eq]
  rcases rawCompare_cases x y with ⟨h, hlex⟩ | ⟨h, hlex⟩ | ⟨h, hhi, hlo⟩ <;> rw [h] <;>
    simp only [reduceCtorEq, true_iff, false_iff] <;> omega

theorem validate_iff (e : Pair) : validate e = true ↔ rawCompare e Config.pfe = .less := beq_iff_eq

/-- Settles O16: p has the words 2^30 − 1 and 2^31 − 1, and on limbs the order of the words is the order of the values. -/
theorem operandCheckIsBelowP : Obligations.OperandCheckIsBelowP := by
  refine ⟨validFE_iff, validate_iff, fun e _ hlo => ?_, by decide, by decide⟩
  rw [validate_iff, rawCompare_pfe_less, val_eq, p_eq]
  omega

/-! ### The adder and the negation -/

/-- Settles O19: the sum modulo p, split into limbs. -/
theorem addCoreIsModularSum : Obligations.AddCoreIsModularSum := by
  intro x y _ hxl _ hyl hsum
  rw [addCore_eq_fe hxl hyl hsum]
  exact ⟨rfl, canonical_fe_mod _⟩

/-- Settles O20: every limb of a valid element is at most that of p. -/
theorem negCoreIsPMinus : Obligations.NegCoreIsPMinus := by
  intro b hb
  obtain ⟨hhi, hlo, hval⟩ := negCore_limbs hb
  obtain ⟨-, hbl, hbp⟩ := hb
  have hzero : val b = 0 → negCore b = Config.pfe := by
    intro h0
    rw [← fe_val _ hlo, hval, h0]
    decide
  have hborrow := subLimbWithBorrow_of_le (a := 2147483647) (b := b.lo.toNat) (by decide) (by omega)
  exact ⟨hval, by omega, by omega, hhi, hlo, hzero, congrArg Prod.snd hborrow⟩

/-! ### The multiplier -/

/-- Settles O21: the fold takes off a multiple of p. -/
theorem karatsubaMultiplierIsModularProduct : Obligations.KaratsubaMultiplierIsModularProduct := by
  intro a b _ _
  have hprod : val a * val b = 2 ^ 62 * mulH a b + 2 ^ 31 * mulM a b + mulL a b := by
    rw [mulM_eq, val_eq, val_eq, mulH, mulL]
    ring
  have hfold : mulT a b % Config.p = val a * val b % Config.p := by
    rw [val_mul_val_eq, Nat.add_mul_mod_self_left]
  exact ⟨mulM_eq a b, hprod, hfold, rfl, mulCore_eq_fe a b, canonical_mulCore a b⟩

/-- Settles O22: every product is bounded by the product of its factors' bounds, and T by the sum of its terms'. -/
theorem datapathWidths : Obligations.DatapathWidths := by
  intro a b ha hb
  obtain ⟨hah, hal⟩ := words_le_of_canonical ha
  obtain ⟨hbh, hbl⟩ := words_le_of_canonical hb
  have hvalA := val_lt_of_canonical ha
  have hvalB := val_lt_of_canonical hb
  have hH : mulH a b ≤ (2 ^ 30 - 1) ^ 2 := pow_two (2 ^ 30 - 1) ▸ Nat.mul_le_mul hah hbh
  have hL : mulL a b ≤ (2 ^ 31 - 1) ^ 2 := pow_two (2 ^ 31 - 1) ▸ Nat.mul_le_mul hal hbl
  have hsumA : a.hi.toNat + a.lo.toNat ≤ 3 * 2 ^ 30 - 2 := by omega
  have hsumB : b.hi.toNat + b.lo.toNat ≤ 3 * 2 ^ 30 - 2 := by omega
  have hS : mulS a b ≤ (3 * 2 ^ 30 - 2) ^ 2 := pow_two (3 * 2 ^ 30 - 2) ▸ Nat.mul_le_mul hsumA hsumB
  have hM : mulM a b ≤ 2 * (2 ^ 30 - 1) * (2 ^ 31 - 1) := by
    have hcross := Nat.add_le_add (Nat.mul_le_mul hah hbl) (Nat.mul_le_mul hal hbh)
    rw [mulM_eq]
    omega
  have hT : mulT a b < 2 ^ 63 + 2 ^ 61 + 2 ^ 32 := by
    rw [mulT, limbBase_eq]
    omega
  have hprod : val a * val b < 2 ^ 122 := calc
    val a * val b < Config.p * Config.p := Nat.mul_lt_mul'' hvalA hvalB
    _ < 2 ^ 122 := by decide
  exact ⟨by omega, by omega, hH, by omega, hL, by omega, hsumA, by omega, hS, by omega, hM, by omega, by omega, hT,
    by omega, hprod⟩

/-! ### Residues -/

theorem residue_fe {v : Nat} (h : v < 2 ^ 62) : residue (fe v) = v := by rw [residue, val_fe v h]

theorem residue_fe_mod (n : Nat) : residue (fe (n % Config.p)) = n := by
  have hlt : n % Config.p < 2 ^ 62 := (Nat.mod_lt n p_pos).trans (by decide)
  rw [residue_fe hlt, ZMod.natCast_mod]

/-- The adder adds residues (41_field R132). -/
theorem residue_addCore {a b : Pair} (ha : Canonical a) (hb : Canonical b) :
    residue (addCore a b) = residue a + residue b := by
  rw [addCore_eq_fe_of_canonical ha hb, residue_fe_mod, Nat.cast_add]
  rfl

/-- The subtractor subtracts residues, since p is 0 modulo p (41_field R133). -/
theorem residue_subCore {a b : Pair} (ha : Canonical a) (hb : Canonical b) :
    residue (subCore a b) = residue a - residue b := by
  rw [subCore_eq_fe ha hb, residue_fe_mod, Nat.cast_add, Nat.cast_sub (val_lt_of_canonical hb).le,
    ZMod.natCast_self, zero_sub, ← sub_eq_add_neg]
  rfl

/-- The multiplier multiplies residues, whatever its operands are (41_field R134). -/
theorem residue_mulCore (a b : Pair) : residue (mulCore a b) = residue a * residue b := by
  rw [mulCore_eq_fe, residue_fe_mod, Nat.cast_mul]
  rfl

/-- A valid element is determined by its residue: it is the least one of its class (00_scope R13). -/
theorem eq_of_residue_eq {a b : Pair} (ha : Canonical a) (hb : Canonical b) (h : residue a = residue b) : a = b := by
  obtain ⟨-, hal, hap⟩ := ha
  obtain ⟨-, hbl, hbp⟩ := hb
  have hval : val a = val b := by
    have hmod := (ZMod.natCast_eq_natCast_iff' (val a) (val b) Config.p).mp h
    rwa [Nat.mod_eq_of_lt hap, Nat.mod_eq_of_lt hbp] at hmod
  rw [← fe_val a hal, ← fe_val b hbl, hval]

/-! ### The field laws -/

theorem residue_fe_zero : residue (fe 0) = 0 := by rw [residue_fe (by decide), Nat.cast_zero]
theorem residue_fe_one : residue (fe 1) = 1 := by rw [residue_fe (by decide), Nat.cast_one]

/-- Settles O23: both sides of each law are valid elements, and their residues are equal by the ring laws of GF(p). -/
theorem fieldLaws : Obligations.FieldLaws := by
  intro a b c ha hb hc
  have h0 := canonical_fe 0 p_pos
  have hab := canonical_addCore ha hb
  have hbc := canonical_addCore hb hc
  have h0a := canonical_subCore h0 ha
  refine ⟨eq_of_residue_eq (canonical_subCore hab hb) ha ?_,
    eq_of_residue_eq (canonical_mulCore _ _) (canonical_mulCore _ _) ?_,
    eq_of_residue_eq hab (canonical_addCore hb ha) ?_,
    eq_of_residue_eq (canonical_addCore ha h0) ha ?_,
    eq_of_residue_eq (canonical_mulCore _ _) ha ?_,
    eq_of_residue_eq (canonical_mulCore _ _) h0 ?_,
    eq_of_residue_eq (canonical_addCore ha h0a) h0 ?_,
    eq_of_residue_eq (canonical_addCore hab hc) (canonical_addCore ha hbc) ?_,
    eq_of_residue_eq (canonical_mulCore _ _) (canonical_mulCore _ _) ?_,
    hab, canonical_subCore ha hb, canonical_mulCore a b, fun n _ => ⟨canonical_fromIntegerCore n, ?_⟩⟩
  · rw [residue_subCore hab hb, residue_addCore ha hb, add_sub_cancel_right]
  · rw [residue_mulCore, residue_mulCore, mul_comm]
  · rw [residue_addCore ha hb, residue_addCore hb ha, add_comm]
  · rw [residue_addCore ha h0, residue_fe_zero, add_zero]
  · rw [residue_mulCore, residue_fe_one, mul_one]
  · rw [residue_mulCore, residue_fe_zero, mul_zero]
  · rw [residue_addCore ha h0a, residue_subCore h0 ha, residue_fe_zero, zero_sub, add_neg_cancel]
  · rw [residue_addCore hab hc, residue_addCore ha hb, residue_addCore ha hbc, residue_addCore hb hc, add_assoc]
  · simp only [residue_mulCore, mul_assoc]
  · exact val_fe _ ((Nat.mod_lt n p_pos).trans (by decide))

end Sys2Proof.Proofs
end

section
/-! PROOFS. The field commands (41_field R130 to R136): what each commits on valid operands, and FVAL and FFROMINT on all. -/

namespace Sys2Proof.Proofs

open Sys2Proof.Machine Sys2Proof.Laws

/-! ### Two operands into a field register -/

/-- Settles O32: the adder's sum modulo p is committed. -/
theorem faddCompletes : Obligations.FaddCompletes := by
  intro s rd rs1 rs2 h1 h2
  rw [← addCore_eq_fe_of_canonical h1 h2]
  exact fieldCommand_commitsF addCore rd h1 h2

/-- Settles O33: the integer difference modulo p is committed. -/
theorem fsubCompletes : Obligations.FsubCompletes := by
  intro s rd rs1 rs2 h1 h2
  rw [← subCore_eq_fe_emod h1 h2]
  exact fieldCommand_commitsF subCore rd h1 h2

/-- Settles O34: the multiplier's product modulo p is committed. -/
theorem fmulCompletes : Obligations.FmulCompletes := by
  intro s rd rs1 rs2 h1 h2
  rw [← mulCore_eq_fe]
  exact fieldCommand_commitsF mulCore rd h1 h2

/-! ### Comparison and validity into RESULT -/

/-- Settles O30: the comparison orders the values of valid operands. -/
theorem fcmpCompletes : Obligations.FcmpCompletes := by
  intro s rs1 rs2 h1 h2
  refine ⟨_, ?_, ?_, frame_writeResult s (rawCompare (s.feOperand rs1) (s.feOperand rs2)).code⟩
  · simp only [exec, execFcmp, (validFE_iff _).mpr h1, (validFE_iff _).mpr h2, Bool.and_self, if_true, State.complete]
  · rw [commit_result, writeResult_result, rawCompare_eq_of_lo_lt (lo_lt_of_canonical h1) (lo_lt_of_canonical h2),
      apply_ite Order.code, apply_ite Order.code]
    rfl

/-- Settles O31: FVAL has no check of its own, and its RESULT is the operand check. -/
theorem fvalCompletes : Obligations.FvalCompletes := by
  intro s rs1
  refine ⟨_, rfl, fun h => ?_, fun h => ?_, frame_writeResult s _⟩
  · rw [commit_result, writeResult_result, if_pos ((validFE_iff _).mpr h)]
  · rw [commit_result, writeResult_result, if_neg (mt (validFE_iff _).mp h)]

/-! ### The conversions -/

/-- Settles O35: the remainder of the integer in IR is committed, whatever it is. -/
theorem ffromintCompletes : Obligations.FfromintCompletes := fun s rd =>
  ⟨_, rfl, commitsF_writeF s rd (fromIntegerCore s.irOperand)⟩

/-- Settles O36: a value below p is read back from the two words of IR. -/
theorem ftointCompletes : Obligations.FtointCompletes := by
  intro s rs1 h1
  have hlt : val (s.feOperand rs1) < 2 ^ 64 := (val_lt_of_canonical h1).trans (by decide)
  refine ⟨_, ?_, ?_, ?_, ?_, frame_writeIR s (toIntegerCore (s.feOperand rs1))⟩
  · simp only [exec, execFtoint, (validFE_iff _).mpr h1, if_true, State.complete]
  · rfl
  · exact congrArg RegWord.put (BitVec.eq_of_toNat_eq (by simp [int64Pair, toIntegerCore]))
  · exact int64_int64Pair hlt

end Sys2Proof.Proofs
end

section
/-! PROOFS. The point functions (42_point R160 to R163): the residues that doubling and differential addition compute in GF(p),
and the points whose doubling needs no curve constant. -/

namespace Sys2Proof.Proofs

open Sys2Proof.Machine Sys2Proof.Laws

/-! ### Residues of the two formulas -/

/-- A valid point is determined by the residues of its coordinates (00_scope R13). -/
theorem point_eq_of_residue_eq {q r : Point} (hq : CanonicalPoint q) (hr : CanonicalPoint r)
    (hx : residue q.x = residue r.x) (hz : residue q.z = residue r.z) : q = r :=
  congrArg₂ Point.mk (eq_of_residue_eq hq.1 hr.1 hx) (eq_of_residue_eq hq.2 hr.2 hz)

theorem residue_doubleCP_x {q : Point} (a24 : Pair) (hq : CanonicalPoint q) :
    residue (doubleCP q a24).x = (residue q.x + residue q.z) ^ 2 * (residue q.x - residue q.z) ^ 2 := by
  obtain ⟨hx, hz⟩ := hq
  simp only [doubleCP, doubleFinish, residue_mulCore, residue_addCore hx hz, residue_subCore hx hz, pow_two]

/-- Each sum and difference of the formula has valid operands, for they are coordinates or products; so none needs `a24` to be
valid. -/
theorem residue_doubleCP_z {q : Point} (a24 : Pair) (hq : CanonicalPoint q) :
    residue (doubleCP q a24).z =
      ((residue q.x + residue q.z) ^ 2 - (residue q.x - residue q.z) ^ 2) *
        ((residue q.x - residue q.z) ^ 2 +
          residue a24 * ((residue q.x + residue q.z) ^ 2 - (residue q.x - residue q.z) ^ 2)) := by
  obtain ⟨hx, hz⟩ := hq
  simp only [doubleCP, doubleFinish, residue_mulCore, residue_addCore (canonical_mulCore _ _) (canonical_mulCore _ _),
    residue_subCore (canonical_mulCore _ _) (canonical_mulCore _ _), residue_addCore hx hz, residue_subCore hx hz, pow_two]

section
variable {p1 p2 : Point} (pd : Point) (h1 : CanonicalPoint p1) (h2 : CanonicalPoint p2)
include h1 h2

theorem residue_addCP_x :
    residue (addCP p1 p2 pd).x =
      residue pd.z * ((residue p2.x - residue p2.z) * (residue p1.x + residue p1.z) +
        (residue p2.x + residue p2.z) * (residue p1.x - residue p1.z)) ^ 2 := by
  obtain ⟨hx1, hz1⟩ := h1
  obtain ⟨hx2, hz2⟩ := h2
  simp only [addCP, residue_mulCore, residue_addCore (canonical_mulCore _ _) (canonical_mulCore _ _),
    residue_addCore hx1 hz1, residue_addCore hx2 hz2, residue_subCore hx1 hz1, residue_subCore hx2 hz2, pow_two]

theorem residue_addCP_z :
    residue (addCP p1 p2 pd).z =
      residue pd.x * ((residue p2.x - residue p2.z) * (residue p1.x + residue p1.z) -
        (residue p2.x + residue p2.z) * (residue p1.x - residue p1.z)) ^ 2 := by
  obtain ⟨hx1, hz1⟩ := h1
  obtain ⟨hx2, hz2⟩ := h2
  simp only [addCP, residue_mulCore, residue_subCore (canonical_mulCore _ _) (canonical_mulCore _ _),
    residue_addCore hx1 hz1, residue_addCore hx2 hz2, residue_subCore hx1 hz1, residue_subCore hx2 hz2, pow_two]

/-- Exchanging the summands exchanges the formula's two products, and a sum and a squared difference are symmetric in them
(42_point R162). -/
theorem addCP_comm : addCP p1 p2 pd = addCP p2 p1 pd := by
  refine point_eq_of_residue_eq (canonicalPoint_addCP _ _ _) (canonicalPoint_addCP _ _ _) ?_ ?_
  · rw [residue_addCP_x pd h1 h2, residue_addCP_x pd h2 h1]
    ring
  · rw [residue_addCP_z pd h1 h2, residue_addCP_z pd h2 h1]
    ring

end

/-! ### Doubling where a coordinate is 0 -/

/-- The two squares of the formula differ by 4XZ; where that is 0 the constant has no effect and the double is infinity
(42_point R163). -/
theorem doubleCP_of_residue_mul_eq_zero {q : Point} (a24 : Pair) (hq : CanonicalPoint q)
    (h : residue q.x * residue q.z = 0) : doubleCP q a24 = ⟨fe ((val q.x + val q.z) ^ 4 % Config.p), fe 0⟩ := by
  have hsq : (residue q.x - residue q.z) ^ 2 = (residue q.x + residue q.z) ^ 2 := by linear_combination -4 * h
  refine point_eq_of_residue_eq (canonicalPoint_doubleCP q a24) ⟨canonical_fe_mod _, canonical_fe 0 p_pos⟩ ?_ ?_
  · rw [residue_doubleCP_x a24 hq, hsq, residue_fe_mod, Nat.cast_pow, Nat.cast_add, ← pow_add]
    rfl
  · rw [residue_doubleCP_z a24 hq, hsq, sub_self, zero_mul, residue_fe_zero]

/-- The doubles of infinity keep Z = 0, with the fourth power of X (42_point R163). -/
theorem doubleCP_infinity {x : Pair} (a24 : Pair) (hx : Canonical x) :
    doubleCP ⟨x, fe 0⟩ a24 = ⟨fe (val x ^ 4 % Config.p), fe 0⟩ :=
  doubleCP_of_residue_mul_eq_zero a24 ⟨hx, canonical_fe 0 p_pos⟩ (by rw [residue_fe_zero, mul_zero])

/-- A point with X = 0 doubles to infinity, with the fourth power of Z (42_point R163). -/
theorem doubleCP_x_zero {z : Pair} (a24 : Pair) (hz : Canonical z) :
    doubleCP ⟨fe 0, z⟩ a24 = ⟨fe (val z ^ 4 % Config.p), fe 0⟩ := by
  have h := doubleCP_of_residue_mul_eq_zero (q := ⟨fe 0, z⟩) a24 ⟨canonical_fe 0 p_pos, hz⟩
    (by rw [residue_fe_zero, zero_mul])
  rwa [show val (fe 0) = 0 from rfl, Nat.zero_add] at h

/-! ### The two obligations -/

/-- Settles O24: the residues of the doubling formula, and its values where XZ = 0. -/
theorem doublingFormulaInField : Obligations.DoublingFormulaInField := by
  have hone : Canonical (fe 1) := canonical_fe 1 (by decide)
  refine ⟨fun q a24 hq _ => ⟨canonicalPoint_doubleCP q a24, residue_doubleCP_x a24 hq, residue_doubleCP_z a24 hq⟩,
    fun x a24 hx _ => doubleCP_infinity a24 hx, fun a24 _ => ⟨?_, ?_, ?_⟩⟩
  · exact doubleCP_infinity a24 hone
  · exact doubleCP_x_zero a24 hone
  · exact doubleCP_infinity a24 (canonical_fe 0 p_pos)

/-- Settles O25: the residues of the differential-addition formula, and its symmetry. -/
theorem differentialAdditionFormulaInField : Obligations.DifferentialAdditionFormulaInField := fun p1 p2 pd h1 h2 _ =>
  ⟨canonicalPoint_addCP p1 p2 pd, residue_addCP_x pd h1 h2, residue_addCP_z pd h1 h2, addCP_comm pd h1 h2⟩

end Sys2Proof.Proofs
end

section
/-! PROOFS. The point commands PDBL and PADD (42_point R163, R164): what they commit on valid operands, and PDBL's error where
A24 was never written. -/

namespace Sys2Proof.Proofs

open Sys2Proof.Machine Sys2Proof.Laws

/-! ### A point command on valid operands -/

/-- A point command whose check holds commits its point. -/
theorem pointCommand_commitsP (s : State) {valid : Bool} (rd : Fin 8) (q : Point) (h : valid = true) :
    ∃ t, s.pointCommand valid rd q = .next t ∧ s.CommitsP t rd q false :=
  ⟨_, by rw [h, pointCommand_valid], commitsP_writePoint s rd q false⟩

/-- Settles O38: PDBL's check is that the point and A24 are valid and that A24 was written. -/
theorem pdblCompletes : Obligations.PdblCompletes := by
  intro s rd rs1 hp ha hw
  refine pointCommand_commitsP s rd _ ?_
  rw [(validPoint_iff _).mpr hp, (validFE_iff _).mpr ha, hw]
  rfl

/-- Settles O39: PADD's check is that its three points are valid. -/
theorem paddCompletes : Obligations.PaddCompletes := by
  intro s rd rs1 rs2 rs3 h1 h2 h3
  refine pointCommand_commitsP s rd _ ?_
  rw [(validPoint_iff _).mpr h1, (validPoint_iff _).mpr h2, (validPoint_iff _).mpr h3]
  rfl

/-! ### The mark of A24 -/

theorem a24Written_eq_false_iff (s : State) :
    s.a24Written = false ↔ s.operands.a24.hi.written = false ∧ s.operands.a24.lo.written = false :=
  everWritten_eq_false _

/-- While idle, the mark is that of the register itself. -/
theorem a24Written_of_idle {s : State} (h : s.busy = false) : s.a24Written = s.data.a24.everWritten := by
  have hp : s.pending = none := by simpa [State.busy] using h
  rw [State.a24Written, State.operands, hp]

/-- A cycle with rst = 1 leaves A24 unwritten, as the machine goes idle with it (10_state R48, 70 R230). -/
theorem a24Written_portCycle_rst (s : State) {p : PortIn} (h : p.rst = true) : (s.portCycle p).a24Written = false := by
  rw [State.portCycle, if_pos h, a24Written_of_idle rfl]
  rfl

/-- An idle host write of either word of A24 marks the register written (10_state R48, 70 R236). -/
theorem a24Written_hostWrite {s : State} {addr : BitVec 8} (v : Word) {h : Half} (hidle : s.busy = false)
    (haddr : windowReg addr = .data (.a24 h)) : (s.hostWrite addr v).a24Written = true := by
  rw [hostWrite_idle_data v hidle haddr, a24Written_of_idle]
  · exact everWritten_setHalf s.data.a24 h v
  · exact hidle

/-- PDBL raises where A24 was never written, whatever its operands hold (42_point R163). -/
theorem execPdbl_of_a24Unwritten {s : State} (rd rs1 : Fin 8) (h : s.a24Written = false) :
    execPdbl rd rs1 s = .next (s.commit .outOfRangeFieldElement false) := by
  rw [execPdbl, h, Bool.and_false, pointCommand_invalid]

/-- Settles O60: the mark fails PDBL's check; a reset takes it away and an idle write of either word sets it. -/
theorem pdblNeedsWrittenA24 : Obligations.PdblNeedsWrittenA24 :=
  ⟨a24Written_eq_false_iff,
    fun s rd rs1 hhi hlo =>
      ⟨_, execPdbl_of_a24Unwritten rd rs1 ((a24Written_eq_false_iff s).mpr ⟨hhi, hlo⟩),
        committedError_commit s _ (by decide)⟩,
    rfl, fun s _ => a24Written_portCycle_rst s, fun _ _ v _ => a24Written_hostWrite v⟩

end Sys2Proof.Proofs
end

section
/-! PROOFS. The ladder as a function of its scalar (43_ladder R180 to R183): its doubling and addition rules, and what the working
registers hold after any number of iterations (R185, R186). -/

namespace Sys2Proof.Proofs

open Sys2Proof.Machine Sys2Proof.Laws

/-! ### The length of a scalar -/

theorem bitlen_sub_one (k : Nat) : bitlen k - 1 = Nat.log2 k := by
  rcases Nat.eq_zero_or_pos k with rfl | hk
  · rfl
  · rw [bitlen, if_neg hk.ne', Nat.add_sub_cancel]

theorem log2_bit (b : Bool) {m : Nat} (hm : m ≠ 0) : Nat.log2 (Nat.bit b m) = Nat.log2 m + 1 := by
  have htwo : 2 ≤ Nat.bit b m := by
    rw [Nat.bit_val]
    omega
  rw [Nat.log2_def, if_pos htwo, Nat.bit_div_two]

/-- The scalar's leading 1-bit alone. -/
theorem div_two_pow_log2 {k : Nat} (hk : 0 < k) : k / 2 ^ Nat.log2 k = 1 :=
  Nat.div_eq_of_lt_le (by simpa using Nat.log2_self_le hk.ne') (by simpa [pow_succ'] using Nat.lt_log2_self)

/-- The next bit of the scalar extends the integer that the bits before it form. -/
theorem div_two_pow_eq_bit (k n : Nat) : k / 2 ^ n = Nat.bit (k.testBit n) (k / 2 ^ (n + 1)) := by
  have h := Nat.bit_testBit_zero_shiftRight_one (k / 2 ^ n)
  rwa [Nat.testBit_div_two_pow, Nat.zero_add, Nat.shiftRight_one, Nat.div_div_eq_div_mul, ← pow_succ, eq_comm] at h

/-- The bits that are processed hold the leading 1-bit. -/
theorem div_two_pow_ne_zero {k n : Nat} (hk : 0 < k) (hn : n ≤ Nat.log2 k) : k / 2 ^ n ≠ 0 :=
  (Nat.div_pos ((Nat.le_log2 hk.ne').mp hn) (Nat.two_pow_pos n)).ne'

/-! ### Both running points at the end of the loop -/

/-- The running points R and S after all iterations of the ladder with scalar `k` (43_ladder R180). -/
def ladderRun (d : Point) (k : Nat) (a24 : Pair) : Point × Point :=
  ladderLoop d k a24 (bitlen k - 1) (ladderInit d a24)

theorem ladder_eq_ladderRun_fst (d : Point) {k : Nat} (a24 : Pair) (hk : k ≠ 0) :
    ladder d k a24 = (ladderRun d k a24).1 := by
  rw [ladder, if_neg hk, ladderRun]

theorem ladderRun_one (d : Point) (a24 : Pair) : ladderRun d 1 a24 = ladderInit d a24 := by
  rw [ladderRun, bitlen_sub_one, show Nat.log2 1 = 0 from rfl, ladderLoop]

/-- A bit appended to the scalar is the bit of the last iteration. -/
theorem ladderLoop_bit (d : Point) (b : Bool) (k : Nat) (a24 : Pair) (n : Nat) (rs : Point × Point) :
    ladderLoop d (Nat.bit b k) a24 (n + 1) rs = ladderIter d a24 b (ladderLoop d k a24 n rs) := by
  induction n generalizing rs with
  | zero => rw [ladderLoop_succ, Nat.testBit_bit_zero, ladderLoop, ladderLoop]
  | succ n ih => rw [ladderLoop_succ, Nat.testBit_bit_succ, ih, ladderLoop_succ]

theorem ladderRun_bit (d : Point) (b : Bool) {m : Nat} (a24 : Pair) (hm : m ≠ 0) :
    ladderRun d (Nat.bit b m) a24 = ladderIter d a24 b (ladderRun d m a24) := by
  rw [ladderRun, ladderRun, bitlen_sub_one, bitlen_sub_one, log2_bit b hm, ladderLoop_bit]

theorem ladder_bit (d : Point) (b : Bool) {m : Nat} (a24 : Pair) (hm : m ≠ 0) :
    ladder d (Nat.bit b m) a24 = (ladderIter d a24 b (ladderRun d m a24)).1 := by
  rw [ladder_eq_ladderRun_fst d a24 (Nat.bit_ne_zero b hm), ladderRun_bit d b a24 hm]

/-! ### The ladder of even and odd scalars -/

theorem ladder_zero (d : Point) (a24 : Pair) : ladder d 0 a24 = ladderZero := by rw [ladder, if_pos rfl]

theorem ladder_one (d : Point) (a24 : Pair) : ladder d 1 a24 = d := by
  rw [ladder_eq_ladderRun_fst d a24 one_ne_zero, ladderRun_one, ladderInit]

/-- The ladder of an even scalar doubles the ladder of its half. -/
theorem ladder_two_mul (d : Point) {m : Nat} (a24 : Pair) (hm : m ≠ 0) :
    ladder d (2 * m) a24 = doubleCP (ladder d m a24) a24 := by
  rw [← Nat.bit_false_apply, ladder_bit d false a24 hm, ladderIter_false, ladder_eq_ladderRun_fst d a24 hm]

theorem ladder_two (d : Point) (a24 : Pair) : ladder d 2 a24 = doubleCP d a24 := by
  rw [ladder_two_mul d (m := 1) a24 one_ne_zero, ladder_one]

/-- R ends at the ladder's point for the scalar, and S at its point for the next scalar (43_ladder R182). -/
theorem ladderRun_eq (d : Point) {k : Nat} (a24 : Pair) (hk : k ≠ 0) :
    ladderRun d k a24 = (ladder d k a24, ladder d (k + 1) a24) := by
  induction k using Nat.binaryRecFromOne with
  | zero => exact absurd rfl hk
  | one => rw [ladderRun_one, ladder_one, ladder_two, ladderInit]
  | bit b m hm ih =>
    refine Prod.ext (ladder_eq_ladderRun_fst d a24 hk).symm ?_
    cases b
    · -- S is then the sum that R is where the bit is 1
      rw [ladderRun_bit d false a24 hm, ladderIter_false, show Nat.bit false m + 1 = Nat.bit true m from rfl,
        ladder_bit d true a24 hm, ladderIter_true]
    · -- S is then doubled, and its scalar with it
      rw [ladderRun_bit d true a24 hm, ladderIter_true, ih hm, show Nat.bit true m + 1 = 2 * (m + 1) from rfl,
        ladder_two_mul d a24 m.succ_ne_zero]

/-- The ladder of an odd scalar adds the ladder's points for the two neighbours that it is the sum of. -/
theorem ladder_two_mul_add_one (d : Point) {m : Nat} (a24 : Pair) (hm : m ≠ 0) :
    ladder d (2 * m + 1) a24 = addCP (ladder d (m + 1) a24) (ladder d m a24) d := by
  rw [← Nat.bit_true_apply, ladder_bit d true a24 hm, ladderIter_true, ladderRun_eq d a24 hm]

/-- Settles O26: 2 is twice 1, and 3 is twice 1 plus 1. -/
theorem ladderSmallScalars : Obligations.LadderSmallScalars := by
  refine ⟨fun d a24 => ⟨ladder_zero d a24, ladder_one d a24, ladder_two d a24, ?_⟩, by decide⟩
  rw [ladder_two_mul_add_one d (m := 1) a24 one_ne_zero, ladder_two, ladder_one]

/-! ### The working registers after any number of iterations -/

/-- The working registers hold the base point and the running points for the bits of `k` that are processed; the leading 1-bit is
one of them (43_ladder R180, R182). -/
def HoldsPrefix (d : Point) (k : Nat) (a24 : Pair) (g : LadderRegs) : Prop :=
  g.d = d ∧ g.todo ≤ Nat.log2 k ∧ (g.r, g.s) = ladderRun d (k / 2 ^ g.todo) a24

theorem holdsPrefix_start (d : Point) {k : Nat} (a24 : Pair) (hk : 0 < k) :
    HoldsPrefix d k a24 (LadderRegs.start d k a24) := by
  rw [LadderRegs.start, bitlen_sub_one]
  refine ⟨rfl, le_rfl, ?_⟩
  rw [div_two_pow_log2 hk, ladderRun_one]

theorem holdsPrefix_step {d : Point} {k : Nat} {a24 : Pair} (hk : 0 < k) {g : LadderRegs} (h : HoldsPrefix d k a24 g) :
    HoldsPrefix d k a24 (g.step k a24) := by
  obtain ⟨d', r, s, _ | n⟩ := g
  · exact h
  · obtain ⟨rfl, htodo, hrs⟩ := h
    refine ⟨rfl, Nat.le_of_succ_le htodo, ?_⟩
    change ladderIter d' a24 (k.testBit n) (r, s) = ladderRun d' (k / 2 ^ n) a24
    rw [div_two_pow_eq_bit, ladderRun_bit _ _ _ (div_two_pow_ne_zero hk htodo), ← hrs]

theorem holdsPrefix_iterate (d : Point) {k : Nat} (a24 : Pair) (hk : 0 < k) (n : Nat) :
    HoldsPrefix d k a24 ((LadderRegs.step k a24)^[n] (LadderRegs.start d k a24)) :=
  Function.Iterate.rec (HoldsPrefix d k a24) (holdsPrefix_start d a24 hk) (fun _ => holdsPrefix_step hk) n

/-- Settles O14: the running points for the processed bits are the ladder's points for k' and k' + 1. -/
theorem ladderRegisterHoldsPrefixMultiple : Obligations.LadderRegisterHoldsPrefixMultiple := by
  intro d k a24 n hk g
  obtain ⟨hd, htodo, hrs⟩ := holdsPrefix_iterate d a24 hk n
  rw [ladderRun_eq d a24 (div_two_pow_ne_zero hk htodo), Prod.mk.injEq] at hrs
  exact ⟨hd, hrs⟩

theorem ladderStep_iterate_todo (k : Nat) (a24 : Pair) (g : LadderRegs) (n : Nat) :
    ((LadderRegs.step k a24)^[n] g).todo = g.todo - n := by
  induction n with
  | zero => rfl
  | succ n ih => rw [Function.iterate_succ_apply', ladderStep_todo, ih, Nat.sub_sub]

/-- Settles O15: each iteration takes a bit, and when none is left the processed bits are the scalar. -/
theorem ladderIterationCountIsExact : Obligations.LadderIterationCountIsExact := by
  intro d k a24 hk hlt
  have htodo := ladderStep_iterate_todo k a24 (LadderRegs.start d k a24)
  refine ⟨?_, htodo, ?_⟩
  · have hlog : Nat.log2 k < 61 := (Nat.log2_lt hk.ne').mpr (hlt.trans (by decide))
    rw [bitlen_sub_one]
    omega
  · obtain ⟨-, hr, -⟩ := ladderRegisterHoldsPrefixMultiple d k a24 (bitlen k - 1) hk
    have hzero : ((LadderRegs.step k a24)^[bitlen k - 1] (LadderRegs.start d k a24)).todo = 0 :=
      (htodo _).trans (Nat.sub_self _)
    rwa [hzero, pow_zero, Nat.div_one] at hr

end Sys2Proof.Proofs
end

section
/-! PROOFS. The command PLADDER (43_ladder R184, R186): its hidden progress shows nowhere, and what it commits on valid
operands. -/

namespace Sys2Proof.Proofs

open Sys2Proof.Machine Sys2Proof.Laws

/-! ### Hidden progress -/

@[simp] theorem work_feOperand (s : State) (i : Fin 16) : s.work.feOperand i = s.feOperand i := by
  rw [State.feOperand, State.feOperand, work_operands]

@[simp] theorem work_pointOperand (s : State) (k : Fin 8) : s.work.pointOperand k = s.pointOperand k := by
  rw [State.pointOperand, State.pointOperand, work_feOperand, work_feOperand]

@[simp] theorem work_a24Operand (s : State) : s.work.a24Operand = s.a24Operand := by
  rw [State.a24Operand, State.a24Operand, work_operands]

@[simp] theorem work_ladderOperandsValid (s : State) (rs1 : Fin 8) (rs2 : Fin 16) :
    s.work.ladderOperandsValid rs1 rs2 = s.ladderOperandsValid rs1 rs2 := by
  rw [State.ladderOperandsValid, State.ladderOperandsValid, work_pointOperand, work_feOperand, work_a24Operand]

/-- Every register of the window reads after hidden progress as before. -/
theorem readReg_work (s : State) (r : WindowReg) : s.work.readReg r = s.readReg r := by
  cases r <;> simp only [State.readReg, State.statusWord, work_data, work_result, work_cmd, work_status, work_busy]

/-- What a PLADDER commits from its working registers after one more piece of progress is what it commits from those before. -/
theorem finish_ladderProgress (s : State) (rs1 : Fin 8) (rs2 : Fin 16) :
    ((s.ladderProgress rs1 rs2).finish (val (s.feOperand rs2)) s.a24Operand).1 = s.ladderPoint rs1 rs2 := by
  rw [State.ladderProgress, State.ladderPoint]
  cases s.working with
  | none => rfl
  | some g => exact congrArg Prod.fst (ladder_finish_step _ _ g)

theorem ladderPoint_work {s : State} {rs1 : Fin 8} {rs2 : Fin 16}
    (h : s.work.working = some (s.ladderProgress rs1 rs2)) : s.work.ladderPoint rs1 rs2 = s.ladderPoint rs1 rs2 := by
  rw [← finish_ladderProgress s, State.ladderPoint, h]
  simp only [work_feOperand, work_a24Operand]

/-- A commit drops the working registers, so hidden progress before it does not show. -/
theorem commit_work (s : State) (c : CompletionCode) (z : Bool) : s.work.commit c z = s.commit c z := by
  obtain ⟨q, h⟩ := work_eq_update s
  rw [h]
  rfl

theorem commit_writePoint_work (s : State) (rd : Fin 8) (q : Point) (c : CompletionCode) (z : Bool) :
    (s.work.writePoint rd q).commit c z = (s.writePoint rd q).commit c z := by
  obtain ⟨r, h⟩ := work_eq_update s
  rw [h]
  rfl

/-- A PLADDER that has made progress commits the same: it reads the same operands and ends at the same point. -/
theorem execPladder_work {s : State} (rd : Fin 8) {rs1 : Fin 8} {rs2 : Fin 16}
    (h : s.work.working = some (s.ladderProgress rs1 rs2)) : execPladder rd rs1 rs2 s.work = execPladder rd rs1 rs2 s := by
  simp only [execPladder, ladderPoint_work h, work_ladderOperandsValid, work_feOperand, State.complete, State.raise,
    commit_work, commit_writePoint_work]

theorem engineCommit_work (s : State) : engineCommit s.work = engineCommit s := by
  rcases work_cases s with hw | ⟨p, rd, rs1, rs2, hp, hd, -, hw⟩
  · rw [hw]
  · have hpending : s.work.pending = some { p with ladder := some (s.ladderProgress rs1 rs2) } := by rw [hw]
    rw [engineCommit_of_decode hp hd, engineCommit_of_decode hpending hd]
    exact execPladder_work rd (by rw [State.working, hpending, Option.bind_some])

/-- Settles O13: the working registers are no register of the window, and a step of them keeps where the ladder ends. -/
theorem hiddenProgressIsInvisible : Obligations.HiddenProgressIsInvisible :=
  ⟨fun s addr => readReg_work s (windowReg addr), engineCommit_work⟩

/-! ### The command on valid operands -/

theorem ladderOperandsValid_iff (s : State) (rs1 : Fin 8) (rs2 : Fin 16) :
    s.ladderOperandsValid rs1 rs2 = true ↔
      CanonicalPoint (s.pointOperand rs1) ∧ Canonical (s.feOperand rs2) ∧ Canonical s.a24Operand := by
  simp only [State.ladderOperandsValid, Bool.and_eq_true, validPoint_iff, validFE_iff, and_assoc]

/-- Settles O40: the zero scalar commits infinity with DEGEN = 1, any other the point where the ladder ends. -/
theorem pladderCompletes : Obligations.PladderCompletes := by
  intro s rd rs1 rs2 hinv hown hp hk ha
  refine ⟨_, ?_, commitsP_writePoint s rd _ _⟩
  rw [exec, execPladder, if_pos ((ladderOperandsValid_iff s rs1 rs2).mpr ⟨hp, hk, ha⟩)]
  by_cases hzero : val (s.feOperand rs2) = 0
  · rw [if_pos hzero, hzero, ladder_zero, beq_self_eq_true]
  · rw [if_neg hzero, ladderPoint_eq_ladder hinv hown hzero, State.complete, beq_eq_false_iff_ne.mpr hzero]

end Sys2Proof.Proofs
end

section
/-! PROOFS. Every step ends in a next state (60_exceptions R210, R219), and the commit of a word that decodes to no command
(R204). -/

namespace Sys2Proof.Proofs

open Sys2Proof.Machine Sys2Proof.Laws

/-! ### No step faults or is refused -/

theorem engineCommit_next (s : State) : ∃ t, engineCommit s = .next t := by
  rcases engineCommit_cases s with ⟨-, h⟩ | ⟨p, i, -, -, h⟩ | ⟨p, -, -, h⟩ <;> rw [h]
  · exact ⟨_, rfl⟩
  · exact exec_next i s
  · exact ⟨_, rfl⟩

theorem step_next (s : State) : ∃ t, step s = .next t := by
  rcases step_cases (Eq.refl (step s)) with ⟨-, h⟩ | ⟨-, h⟩ | ⟨p, -, h⟩ <;> rw [h]
  · exact engineCommit_next _
  · exact ⟨_, rfl⟩
  · exact ⟨_, rfl⟩

/-- An idle engine with its commit next only loses that event and the read data. -/
theorem step_of_commitNext_of_idle {s : State} (hc : s.commitNext) (hidle : s.busy = false) :
    step s = .next s.advance := by
  have hp : s.advance.pending = none := by simpa [State.busy] using hidle
  rw [step_commit s hc, engineCommit, hp]

theorem advance_of_agenda_nil {s : State} (h : s.agenda = []) : s.advance = { s with rdata := none } := by
  rw [State.advance, h, List.tail_nil, ← h]

/-- Settles O8: every command and every other event has a next state; a final state takes an idle engine's commit. -/
theorem everyStepGivesNextState : Obligations.EveryStepGivesNextState := by
  refine ⟨step_next, fun s ⟨hagenda, hidle⟩ => ?_⟩
  rw [step_of_commitNext_of_idle (.inl hagenda) hidle, advance_of_agenda_nil hagenda]

/-! ### Illegal words -/

/-- A pending word outside the opcode table commits with ILLEGAL_COMMAND (60_exceptions R204). -/
theorem engineCommit_of_decode_none {s : State} {p : Pending} (hp : s.pending = some p) (hd : decode p.word = none) :
    engineCommit s = .next (s.commit .illegalCommand false) := by
  simp only [engineCommit, hp, hd, State.raise]

/-- Settles O7: the step is the engine's commit of the illegal word, which changes STATUS only. -/
theorem illegalWordCommitsIllegalCommand : Obligations.IllegalWordCommitsIllegalCommand := by
  refine ⟨rfl, fun s p hp hd hc => ⟨_, ?_, committedError_commit s.advance .illegalCommand (by decide)⟩⟩
  rw [step_commit s hc]
  exact engineCommit_of_decode_none (by rwa [advance_pending]) hd

end Sys2Proof.Proofs
end

section
/-! PROOFS. The errors of commands: an error commit writes STATUS only (60_exceptions R201), the operand checks of each command
(R202, R203), and the zero scalar that is no error (R205). -/

namespace Sys2Proof.Proofs

open Sys2Proof.Machine Sys2Proof.Laws

/-! ### A code other than OK -/

/-- A command that ends with a code other than OK has only committed with it: whatever writes a register commits with OK. -/
theorem exec_eq_commit_of_code_ne_ok {i : Instr} {s t : State} (h : exec i s = .next t) (hc : t.status.code ≠ .ok) :
    t = s.commit t.status.code false := by
  rcases exec_shape i s with ⟨c, -, he⟩ | ⟨rd, p, -, he⟩ | ⟨rd, p, -, -, he⟩ | ⟨rd, rs1, rs2, -, -, he⟩ | ⟨w, -, -, he⟩ |
    ⟨rs1, n, -, he⟩ <;> obtain rfl := Host.Outcome.next.inj (h.symm.trans he)
  case inl => rfl
  all_goals exact absurd rfl hc

/-- Settles O43: an error commit changes STATUS and BUSY, so no other register of the window. -/
theorem errorWritesOnlyStatus : Obligations.ErrorWritesOnlyStatus := by
  intro i s t h hc
  have ht := exec_eq_commit_of_code_ne_ok h hc
  refine ⟨?_, fun addr hr => ?_⟩
  · have herror := committedError_commit s t.status.code hc
    rwa [← ht] at herror
  · rw [State.windowByte, State.windowByte, State.hostRead, State.hostRead, ht, readReg_commit s _ _ hr]

/-! ### A command with an operand check -/

/-- The outcome `o` of a command on `s` is an error commit with code `c` where `ok` fails, and has code OK where it holds. -/
def RaisesUnless (s : State) (c : CompletionCode) (ok : Prop) (o : Outcome) : Prop :=
  ∃ t, o = .next t ∧ (¬ ok → s.CommittedError t c) ∧ (ok → t.status.code = .ok)

/-- A command that commits `x` with code OK where its check passes, and raises `c` where it does not. -/
theorem raisesUnless_ite {s : State} {c : CompletionCode} {check : Bool} {ok : Prop} {x : Outcome} (hc : c ≠ .ok)
    (hcheck : check = true ↔ ok) (hx : ∃ t, x = .next t ∧ t.status.code = .ok) :
    RaisesUnless s c ok (if check then x else s.raise c) := by
  by_cases h : check = true
  · obtain ⟨t, ht, hcode⟩ := hx
    exact ⟨t, by rw [if_pos h, ht], fun hnot => absurd (hcheck.mp h) hnot, fun _ => hcode⟩
  · exact ⟨s.commit c false, by rw [if_neg h, State.raise], fun _ => committedError_commit s c hc,
      fun hok => absurd (hcheck.mpr hok) h⟩

/-- A completion has code OK. -/
theorem complete_code_ok (s : State) : ∃ t, s.complete = .next t ∧ t.status.code = .ok := ⟨_, rfl, rfl⟩

/-! ### Limb operands -/

theorem isLimb_eq_true_iff (w : Word) : isLimb w = true ↔ w.getLsbD 31 = false := by
  rw [isLimb, Bool.not_eq_true']

/-- A limb command checks bit 31 of its two operands (60_exceptions R203). -/
theorem limbCommand_raisesUnless (s : State) (f : Nat → Nat → Nat × Nat) (rd rs1 rs2 : Fin 16) :
    RaisesUnless s .outOfRangeLimb
      ((s.limbOperand rs1).getLsbD 31 = false ∧ (s.limbOperand rs2).getLsbD 31 = false) (s.limbCommand f rd rs1 rs2) :=
  raisesUnless_ite (by decide) (by rw [Bool.and_eq_true, isLimb_eq_true_iff, isLimb_eq_true_iff]) (complete_code_ok _)

/-- The four limb commands differ in their function only. -/
theorem exec_eq_limbCommand {i : Instr} {rd rs1 rs2 : FIdx}
    (hi : i ∈ [.ladd rd rs1 rs2, .laddc rd rs1 rs2, .lsub rd rs1 rs2, .lsubb rd rs1 rs2]) (s : State) :
    ∃ f, exec i s = s.limbCommand f rd rs1 rs2 := by
  simp only [List.mem_cons, List.not_mem_nil, or_false] at hi
  rcases hi with rfl | rfl | rfl | rfl
  · exact ⟨fun a b => (0, addLimb a b), rfl⟩
  · exact ⟨fun a b => ((addLimbWithCarry a b).2, (addLimbWithCarry a b).1), rfl⟩
  · exact ⟨fun a b => (0, subLimb a b), rfl⟩
  · exact ⟨fun a b => ((subLimbWithBorrow a b).2, (subLimbWithBorrow a b).1), rfl⟩

/-- Settles O29: the shared check of the four limb commands. -/
theorem limbCommandsCheckBit31 : Obligations.LimbCommandsCheckBit31 := by
  refine ⟨rfl, fun s rd rs1 rs2 i hi => ?_⟩
  obtain ⟨f, hf⟩ := exec_eq_limbCommand hi s
  obtain ⟨t, ht, herror, hok⟩ := limbCommand_raisesUnless s f rd rs1 rs2
  refine ⟨t, hf.trans ht, fun hbit => herror ?_, fun h1 h2 => hok ⟨h1, h2⟩⟩
  rintro ⟨h1, h2⟩
  simp only [h1, h2, Bool.false_eq_true, or_self] at hbit

/-! ### Field-element operands -/

theorem validFE_pair_iff (a b : Pair) : (validFE a && validFE b) = true ↔ Canonical a ∧ Canonical b := by
  rw [Bool.and_eq_true, validFE_iff, validFE_iff]

/-- A two-operand field command checks both operands (60_exceptions R202). -/
theorem fieldCommand_raisesUnless (s : State) (f : Pair → Pair → Pair) (rd rs1 rs2 : Fin 16) :
    RaisesUnless s .outOfRangeFieldElement (Canonical (s.feOperand rs1) ∧ Canonical (s.feOperand rs2))
      (s.fieldCommand f rd rs1 rs2) :=
  raisesUnless_ite (by decide) (validFE_pair_iff _ _) (complete_code_ok _)

theorem execFcmp_raisesUnless (s : State) (rs1 rs2 : Fin 16) :
    RaisesUnless s .outOfRangeFieldElement (Canonical (s.feOperand rs1) ∧ Canonical (s.feOperand rs2))
      (execFcmp rs1 rs2 s) :=
  raisesUnless_ite (by decide) (validFE_pair_iff _ _) (complete_code_ok _)

theorem execFtoint_raisesUnless (s : State) (rs1 : Fin 16) :
    RaisesUnless s .outOfRangeFieldElement (Canonical (s.feOperand rs1)) (execFtoint rs1 s) :=
  raisesUnless_ite (by decide) (validFE_iff _) (complete_code_ok _)

/-- A point command raises unless the check it is given holds (42_point R163, R164). -/
theorem pointCommand_raisesUnless (s : State) {valid : Bool} {ok : Prop} (rd : Fin 8) (q : Point)
    (h : valid = true ↔ ok) : RaisesUnless s .outOfRangeFieldElement ok (s.pointCommand valid rd q) :=
  raisesUnless_ite (by decide) h (complete_code_ok _)

theorem execPdbl_raisesUnless (s : State) (rd rs1 : Fin 8) :
    RaisesUnless s .outOfRangeFieldElement
      (CanonicalPoint (s.pointOperand rs1) ∧ Canonical s.a24Operand ∧ s.a24Written = true) (execPdbl rd rs1 s) :=
  pointCommand_raisesUnless s rd _ (by simp only [Bool.and_eq_true, validPoint_iff, validFE_iff, and_assoc])

theorem execPadd_raisesUnless (s : State) (rd rs1 rs2 rs3 : Fin 8) :
    RaisesUnless s .outOfRangeFieldElement
      (CanonicalPoint (s.pointOperand rs1) ∧ CanonicalPoint (s.pointOperand rs2) ∧ CanonicalPoint (s.pointOperand rs3))
      (execPadd rd rs1 rs2 rs3 s) :=
  pointCommand_raisesUnless s rd _ (by simp only [Bool.and_eq_true, validPoint_iff, and_assoc])

/-- PLADDER checks its operands before it looks at the scalar, and both ways on have code OK (43_ladder R184). -/
theorem execPladder_raisesUnless (s : State) (rd rs1 : Fin 8) (rs2 : Fin 16) :
    RaisesUnless s .outOfRangeFieldElement
      (CanonicalPoint (s.pointOperand rs1) ∧ Canonical (s.feOperand rs2) ∧ Canonical s.a24Operand)
      (execPladder rd rs1 rs2 s) := by
  refine raisesUnless_ite (by decide) (ladderOperandsValid_iff s rs1 rs2) ?_
  split
  · exact ⟨_, rfl, rfl⟩
  · exact complete_code_ok _

/-- A command that always completes has no check to fail. -/
theorem complete_raisesUnless (s w : State) (c : CompletionCode) : RaisesUnless s c True w.complete :=
  ⟨_, rfl, fun h => absurd trivial h, fun _ => rfl⟩

/-- Settles O37: the check of each command; FVAL's RESULT is its completion. -/
theorem fieldOperandChecks : Obligations.FieldOperandChecks := by
  refine ⟨rfl, fun s rd rs1 rs2 pd p1 p2 p3 => ⟨execFcmp_raisesUnless s rs1 rs2,
    fieldCommand_raisesUnless s addCore rd rs1 rs2, fieldCommand_raisesUnless s subCore rd rs1 rs2,
    fieldCommand_raisesUnless s mulCore rd rs1 rs2, execFtoint_raisesUnless s rs1, execPdbl_raisesUnless s pd p1,
    execPadd_raisesUnless s pd p1 p2 p3, execPladder_raisesUnless s pd p1 rs2, complete_raisesUnless s _ _,
    complete_raisesUnless s _ _, ?_⟩⟩
  obtain ⟨t, ht, hvalid, hinvalid, -, -⟩ := fvalCompletes s rs1
  exact ⟨t, ht, hvalid, hinvalid⟩

/-! ### The zero scalar -/

theorem ladderZero_eq : ladderZero = ⟨⟨0#32, 1#32⟩, ⟨0#32, 0#32⟩⟩ := rfl

/-- Settles O41: the scalar is looked at before the working registers, so no invariant is needed. -/
theorem zeroScalarIsNoError : Obligations.ZeroScalarIsNoError := by
  intro s rd rs1 rs2 hp hk ha hzero
  rw [← ladderZero_eq]
  refine ⟨_, ?_, commitsP_writePoint s rd ladderZero true⟩
  rw [exec, execPladder, if_pos ((ladderOperandsValid_iff s rs1 rs2).mpr ⟨hp, hk, ha⟩), if_pos hzero]

end Sys2Proof.Proofs
end

section
/-! PROOFS. The run of an agenda to its end (70 R240, R242): each step takes one event, so the agenda's steps and one more leave the
machine final, and a command that no reset abandons comes to its commit on the way. -/

namespace Sys2Proof.Proofs

open Sys2Proof.Machine Sys2Proof.Laws

/-! ### The agenda along a step -/

/-- A command keeps the agenda, since its outcome carries any agenda along. -/
theorem exec_agenda {i : Instr} {s t : State} (h : exec i s = .next t) : t.agenda = s.agenda := by
  have ht := exec_withPort i s t s.rdata s.agenda h
  rw [withPort_self, h] at ht
  exact (congrArg State.agenda (Host.Outcome.next.inj ht) :)

theorem engineCommit_agenda {s t : State} (h : engineCommit s = .next t) : t.agenda = s.agenda := by
  rcases engineCommit_cases s with ⟨-, he⟩ | ⟨p, i, -, -, he⟩ | ⟨p, -, -, he⟩ <;> rw [he] at h
  · rw [← Host.Outcome.next.inj h]
  · exact exec_agenda h
  · rw [← Host.Outcome.next.inj h, commit_agenda]

@[simp] theorem work_agenda (s : State) : s.work.agenda = s.agenda := by obtain ⟨q, h⟩ := work_eq_update s; rw [h]

/-- No event changes what is still to come, a reset included (log entry 5). -/
theorem runEvent_agenda {e : Event} {s t : State} (h : runEvent e s = .next t) : t.agenda = s.agenda := by
  cases runEvent_effect h with
  | commit _ => exact engineCommit_agenda h
  | work => exact work_agenda s
  | quiet | reset | store | issue | drop | clear => rfl

/-- A step takes exactly the next event off the agenda. -/
theorem step_agenda {s t : State} (h : step s = .next t) : t.agenda = s.agenda.tail := by
  rcases step_cases h with ⟨-, ho⟩ | ⟨-, ho⟩ | ⟨p, -, ho⟩
  · exact runEvent_agenda (e := .commit) ho.symm
  · exact runEvent_agenda (e := .work) ho.symm
  · exact runEvent_agenda (e := .host p) ho.symm

theorem step_of_agenda_cons {s : State} {e : Event} {rest : List Event} (h : s.agenda = e :: rest) :
    step s = runEvent e s.advance := by
  rw [step, h]

/-! ### The end of the agenda -/

/-- The engine's commit leaves the engine idle (10_state R41). -/
theorem engineCommit_idle {s t : State} (h : engineCommit s = .next t) : t.busy = false := by
  rcases engineCommit_cases s with ⟨hp, he⟩ | ⟨p, i, -, -, he⟩ | ⟨p, -, -, he⟩ <;> rw [he] at h
  · rw [← Host.Outcome.next.inj h, State.busy, hp, Option.isSome_none]
  · rw [State.busy, (exec_anyCommit h).pending, Option.isSome_none]
  · rw [← Host.Outcome.next.inj h, State.busy, commit_pending, Option.isSome_none]

/-- With nothing left on the agenda one step is the commit that ends the run (log entry 5). -/
theorem final_of_step_of_agenda_nil {s t : State} (ha : s.agenda = []) (h : step s = .next t) : t.final := by
  refine ⟨by rw [step_agenda h, ha, List.tail_nil], ?_⟩
  rw [step_commit s (.inl ha)] at h
  exact engineCommit_idle h

theorem run_agenda_final {l : List Event} {s : State} (ha : s.agenda = l) :
    ∃ t, Host.Core.run core (l.length + 1) s = .next t ∧ t.final := by
  induction l generalizing s with
  | nil =>
    obtain ⟨t, ht⟩ := step_next s
    exact ⟨t, run_of_next 0 ht, final_of_step_of_agenda_nil ha ht⟩
  | cons e rest ih =>
    obtain ⟨u, hu⟩ := step_next s
    obtain ⟨t, ht, hfinal⟩ := ih (s := u) (by rw [step_agenda hu, ha, List.tail_cons])
    exact ⟨t, (run_of_next _ hu).trans ht, hfinal⟩

/-! ### The commit of a pending command -/

/-- An event that is neither the commit nor a reset keeps the pending command's word (10_state R45). -/
theorem runEvent_pending_word {e : Event} {s t : State} {w : Word} (hw : s.pending.map (·.word) = some w)
    (hcommit : e ≠ .commit) (hreset : ∀ p, e = .host p → p.rst = false) (h : runEvent e s = .next t) :
    t.pending.map (·.word) = some w := by
  have hbusy : s.busy = true := by rw [State.busy, ← Option.isSome_map, hw, Option.isSome_some]
  obtain ⟨-, -, -, -, -, -, hword⟩ := runningCommandIsUndisturbed s t e hbusy hcommit hreset h
  exact hword.trans hw

theorem run_agenda_commitNext {l : List Event} {s : State} {w : Word} (ha : s.agenda = l)
    (hw : s.pending.map (·.word) = some w) (hreset : ∀ p, Event.host p ∈ l → p.rst = false) :
    ∃ n u, n ≤ l.length ∧ Host.Core.run core n s = .next u ∧ u.pending.map (·.word) = some w ∧ u.commitNext := by
  induction l generalizing s with
  | nil => exact ⟨0, s, le_rfl, rfl, hw, .inl ha⟩
  | cons e rest ih =>
    by_cases he : e = .commit
    · exact ⟨0, s, Nat.zero_le _, rfl, hw, .inr (by rw [ha, he, List.head?_cons])⟩
    · obtain ⟨v, hv⟩ := step_next s
      have hvw : v.pending.map (·.word) = some w :=
        runEvent_pending_word (s := s.advance) hw he (fun p hp => hreset p (hp ▸ List.mem_cons_self))
          ((step_of_agenda_cons ha).symm.trans hv)
      obtain ⟨n, u, hn, hu, huw, hnext⟩ := ih (s := v) (by rw [step_agenda hv, ha, List.tail_cons]) hvw
        (fun p hp => hreset p (List.mem_cons_of_mem e hp))
      exact ⟨n + 1, u, Nat.succ_le_succ hn, (run_of_next n hv).trans hu, huw, hnext⟩

/-- Settles O9, by induction on the agenda: each step takes one event off it, and only a commit or a reset ends a command. -/
theorem agendaThenCommitIsFinal : Obligations.AgendaThenCommitIsFinal := fun _ =>
  ⟨run_agenda_final rfl, fun _ hw hreset => run_agenda_commitNext rfl hw hreset⟩

end Sys2Proof.Proofs
end

section
/-! PROOFS. A cycle with rst = 1 (70 R230, R231, 10_state R47, R48). -/

namespace Sys2Proof.Proofs

open Sys2Proof.Machine Sys2Proof.Laws

/-- Reset goes before any access presented in its cycle (70 R231). -/
theorem portCycle_of_rst (s : State) {p : PortIn} (h : p.rst = true) : s.portCycle p = s.resetEdge p := if_pos h

/-- Every word of the operand registers after a reset is marked unwritten, whatever its free value (10_state R48). -/
@[simp] theorem unspecifiedBank_word_written (n : Nat) (d : DataWord) : ((unspecifiedBank n).word d).written = false := by
  cases d with
  | f i h => cases h <;> simp [Bank.word, Bank.freg, Reg.half, unspecifiedBank]
  | ir h => cases h <;> rfl
  | a24 h => cases h <;> rfl

/-- Settles O56: the cycle is the reset edge, which reads of the earlier state only the agenda and where the free values
stand, and of the access only whether it is a read. -/
theorem resetCycle : Obligations.ResetCycle := by
  intro s p hp
  rw [portCycle_of_rst s hp]
  refine ⟨?status, ?cmd, rfl, fun d => unspecifiedBank_word_written _ d, rfl, fun q hq => ?access, fun s' => ?earlier⟩
  case status =>
    rw [hostRead_status]
    rfl
  case cmd =>
    rw [State.hostRead, windowReg_cmd, State.readReg, resetEdge_cmd]
  case access =>
    rw [portCycle_of_rst s hq]
    rfl
  case earlier =>
    rw [portCycle_of_rst s' hp]
    exact ⟨rfl, rfl, rfl, fun d => by simp only [resetEdge_data, unspecifiedBank_word_written], rfl⟩

end Sys2Proof.Proofs
end
